-- ==== Sys2Proof/Word.lean ====
section
/-! DEFINITION. The widths the TCIC works in: names for the bit vectors of spec/00_scope.md and spec/30_encoding.md. -/

namespace Sys2Proof

/-- A 32-bit operand, response datum or register (00_scope.md R5, 30_encoding.md R44). -/
abbrev Word := BitVec 32

/-- One payload byte (10_state.md R17). -/
abbrev Byte := BitVec 8

/-- The 16-bit offset-binary raw temperature (00_scope.md R5 `RAW_WIDTH`, 10_state.md R19). -/
abbrev Raw := BitVec 16

/-- A 40-bit command word, `op` in bits 39:32 and `operand` in bits 31:0 (30_encoding.md R44). -/
abbrev CommandWord := BitVec 40

/-- A 35-bit response word, `code` in bits 34:32 and `data` in bits 31:0 (30_encoding.md R45). -/
abbrev ResponseWord := BitVec 35

end Sys2Proof
end

