-- ==== Sys2Proof/Syntax.lean ====
section
/-! DEFINITION. The instruction set: one constructor for each of the 18 rows of spec/opcode_table.json, each with the
whole 32-bit operand field of its command word (30_encoding.md R44). What a command does with the operand, and which
of its bits it ignores (R48, R49), is its meaning's business. -/

namespace Sys2Proof

/-- The commands of 30_encoding.md R47. -/
inductive Instr where
  /-- NOP, op 0x00; the operand is ignored (43_status.md R82). -/
  | nop (operand : Word)
  /-- ENC.T, op 0x10; the operand is a binary32 temperature (40_codec.md R59). -/
  | encT (operand : Word)
  /-- DEC.T, op 0x11; the operand is ignored (40_codec.md R61). -/
  | decT (operand : Word)
  /-- LDP.0, op 0x20; the operand is ignored (41_payload.md R70). -/
  | ldp0 (operand : Word)
  /-- LDP.1, op 0x21; operand bits 31:24 are byte 0 (41_payload.md R70). -/
  | ldp1 (operand : Word)
  /-- LDP.2, op 0x22; operand bits 31:16 are bytes 0..1 (41_payload.md R70). -/
  | ldp2 (operand : Word)
  /-- LDP.3, op 0x23; operand bits 31:8 are bytes 0..2 (41_payload.md R70). -/
  | ldp3 (operand : Word)
  /-- LDP.4, op 0x24; operand bits 31:0 are bytes 0..3 (41_payload.md R70). -/
  | ldp4 (operand : Word)
  /-- RDP, op 0x28; the operand is ignored (41_payload.md R71). -/
  | rdp (operand : Word)
  /-- RDC, op 0x30; the operand is ignored (43_status.md R83). -/
  | rdc (operand : Word)
  /-- RDF, op 0x31; the operand is ignored (43_status.md R84). -/
  | rdf (operand : Word)
  /-- RDS, op 0x38; the operand is ignored (43_status.md R85). -/
  | rds (operand : Word)
  /-- CLS, op 0x39; operand bits 3:0 are a write-1-to-clear mask (43_status.md R86). -/
  | cls (operand : Word)
  /-- IV.SETI, op 0x40; the operand is the new INTERVAL (42_interval.md R75). -/
  | ivSetI (operand : Word)
  /-- IV.SETL, op 0x41; the operand is the new LAST (42_interval.md R76). -/
  | ivSetL (operand : Word)
  /-- IV.TICK, op 0x42; the operand is `now` (42_interval.md R77). -/
  | ivTick (operand : Word)
  /-- IV.RDI, op 0x48; the operand is ignored (42_interval.md R78). -/
  | ivRdI (operand : Word)
  /-- IV.RDL, op 0x49; the operand is ignored (42_interval.md R79). -/
  | ivRdL (operand : Word)
deriving DecidableEq, Repr

/-- The operand field of a command (30_encoding.md R44). -/
def Instr.operand : Instr → Word
  | .nop x | .encT x | .decT x | .ldp0 x | .ldp1 x | .ldp2 x | .ldp3 x | .ldp4 x | .rdp x
  | .rdc x | .rdf x | .rds x | .cls x | .ivSetI x | .ivSetL x | .ivTick x | .ivRdI x | .ivRdL x => x

end Sys2Proof
end

