-- ==== Sys2Proof/WellFormed.lean ====
section
/-! DEFINITION. Well-formedness of a command: the form an assembler writes (30_encoding.md R54). It is NO condition
on running: 30_encoding.md R49 says that an ignored operand bit is not required to be zero, and the machine gives a
command outside this form the same outcome and state. -/

namespace Sys2Proof

/-- Whether the command ignores its whole operand: the nine commands of 30_encoding.md R49. -/
def Instr.ignoresOperand : Instr → Bool
  | .nop _ => true
  | .encT _ => false
  | .decT _ => true
  | .ldp0 _ => true
  | .ldp1 _ => false
  | .ldp2 _ => false
  | .ldp3 _ => false
  | .ldp4 _ => false
  | .rdp _ => true
  | .rdc _ => true
  | .rdf _ => true
  | .rds _ => true
  | .cls _ => false
  | .ivSetI _ => false
  | .ivSetL _ => false
  | .ivTick _ => false
  | .ivRdI _ => true
  | .ivRdL _ => true

/-- The form an assembler writes: a command whose operand is ignored assembles with operand 0x00000000, any other
command takes any 32-bit operand (30_encoding.md R54). -/
def Instr.wellFormed (i : Instr) : Bool :=
  !i.ignoresOperand || i.operand == 0#32

end Sys2Proof
end

