-- ==== Sys2Proof/Decode.lean ====
section
/-! DEFINITION. Decoding a 40-bit command word (30_encoding.md R44, R46, R47, R51) and, after it, the encoder written
from the same table. Decoding depends on the 8-bit `op` of the word alone (R53). -/

namespace Sys2Proof

/-- Why a command word is no assigned command. -/
inductive DecodeError where
  /-- `op` is one of the 238 unassigned values of 30_encoding.md R51; the machine answers ERR_ILLEGAL (R93). -/
  | unassignedOpcode (op : Byte)
deriving DecidableEq, Repr

/-- The field `op`, bits 39:32 (30_encoding.md R44). -/
def opField (w : CommandWord) : Byte := w.extractLsb' 32 8

/-- The field `operand`, bits 31:0 (30_encoding.md R44). -/
def operandField (w : CommandWord) : Word := w.extractLsb' 0 32

/-- The command that an opcode and an operand stand for, all eight bits of `op` matched exactly (30_encoding.md R46,
R47); every other opcode is rejected by name (R51). -/
def decodeFields (op : Byte) (x : Word) : Except DecodeError Instr :=
  match op with
  | 0x00#8 => .ok (.nop x)
  | 0x10#8 => .ok (.encT x)
  | 0x11#8 => .ok (.decT x)
  | 0x20#8 => .ok (.ldp0 x)
  | 0x21#8 => .ok (.ldp1 x)
  | 0x22#8 => .ok (.ldp2 x)
  | 0x23#8 => .ok (.ldp3 x)
  | 0x24#8 => .ok (.ldp4 x)
  | 0x28#8 => .ok (.rdp x)
  | 0x30#8 => .ok (.rdc x)
  | 0x31#8 => .ok (.rdf x)
  | 0x38#8 => .ok (.rds x)
  | 0x39#8 => .ok (.cls x)
  | 0x40#8 => .ok (.ivSetI x)
  | 0x41#8 => .ok (.ivSetL x)
  | 0x42#8 => .ok (.ivTick x)
  | 0x48#8 => .ok (.ivRdI x)
  | 0x49#8 => .ok (.ivRdL x)
  | bad => .error (.unassignedOpcode bad)

/-- The decoder, total on every command word (30_encoding.md R46, R51). -/
def decode (w : CommandWord) : Except DecodeError Instr :=
  decodeFields (opField w) (operandField w)

/-- The opcode of each command (30_encoding.md R47). -/
def Instr.opcode : Instr → Byte
  | .nop _ => 0x00#8
  | .encT _ => 0x10#8
  | .decT _ => 0x11#8
  | .ldp0 _ => 0x20#8
  | .ldp1 _ => 0x21#8
  | .ldp2 _ => 0x22#8
  | .ldp3 _ => 0x23#8
  | .ldp4 _ => 0x24#8
  | .rdp _ => 0x28#8
  | .rdc _ => 0x30#8
  | .rdf _ => 0x31#8
  | .rds _ => 0x38#8
  | .cls _ => 0x39#8
  | .ivSetI _ => 0x40#8
  | .ivSetL _ => 0x41#8
  | .ivTick _ => 0x42#8
  | .ivRdI _ => 0x48#8
  | .ivRdL _ => 0x49#8

/-- A command word written `OO_DDDDDDDD`, that is `op : operand` (30_encoding.md R44). -/
def commandWord (op : Byte) (operand : Word) : CommandWord := op ++ operand

/-- The encoder: a command's opcode and its whole operand (30_encoding.md R44, R47). -/
def encode (i : Instr) : CommandWord := commandWord i.opcode i.operand

/-- The host's question: the instruction the decoder reads from the table word `w` of `nbits` bits. A command word is
ONE 40-bit word (30_encoding.md R44), so bit 0 of `w` is bit 0 of the operand; bits above `nbits` are 0, and a number
that does not fit 40 bits is no command word (log entry 7). -/
def decodeTableWord (nbits w : Nat) : Option Instr :=
  if w % 2 ^ nbits < 2 ^ 40 then (decode (BitVec.ofNat 40 (w % 2 ^ nbits))).toOption else none

end Sys2Proof
end

