-- ==== Sys2Proof/Config.lean ====
section
/-! DEFINITION. The implementation parameters of spec/00_scope.md R5. All but one are fixed by the spec; the open
one, INTERVAL_RESET, is carried by the machine's state as plain data (log entry 4), and only its recommended default
stands here. -/

namespace Sys2Proof

/-- `PAYLOAD_LEN`: 4 bytes, fixed (00_scope.md R5). -/
abbrev Config.payloadLen : Nat := 4

/-- `TEMP_OFFSET_C`: +200.00 degrees Celsius (00_scope.md R5). -/
abbrev Config.tempOffsetC : Int := 200

/-- `TEMP_SCALE`: 100 raw units per degree Celsius (00_scope.md R5). -/
abbrev Config.tempScale : Int := 100

/-- `TEMP_OFFSET_C` in raw units: 20000 (00_scope.md R5). -/
abbrev Config.tempOffsetRaw : Int := 20000

/-- The largest value of the unsigned `RAW_WIDTH` = 16 bit word: 65535 (00_scope.md R5). -/
abbrev Config.rawMax : Int := 65535

/-- The recommended default of the OPEN parameter `INTERVAL_RESET` (00_scope.md R5, 10_state.md R31).
DESIGN CHOICE (log entry 4): `State.reset` takes it; `State.resetWith` takes any other value. -/
abbrev Config.intervalResetDefault : Word := 0xFFFFFFFF#32

end Sys2Proof
end

