-- ==== Sys2Proof/Machine/State.lean ====
section
/-! DEFINITION. The state of the TCIC as plain data: the tuple of 10_state.md R30, and beside it the model's own
fields for the host (the moves it has still to make, the responses it has received) and for the open parameter
INTERVAL_RESET. -/

namespace Sys2Proof.Machine

/-- The payload buffer as memory (20_memory.md R32): (address, byte) pairs in the canonical form of `Memory.wf`,
addresses 0..3, an unlisted address reading as `unlistedByte`. -/
abbrev Memory := List Host.Cell

/-- A move of the host, the only other agent (00_scope.md R6, 70_reset_and_hazards.md R109). -/
inductive HostMove where
  /-- One 40-bit command word, assigned or not (30_encoding.md R44). -/
  | command (w : CommandWord)
  /-- The external reset, between two commands (70_reset_and_hazards.md R103). -/
  | reset
deriving DecidableEq, Repr

/-- The outcome codes of 60_exceptions.md R88; codes 5, 6 and 7 do not exist. -/
inductive OutcomeCode where
  | ok
  | warnSat
  | warnNan
  | errTrunc
  | errIllegal
deriving DecidableEq, Repr

/-- The warnings and errors a command can raise, each with a sticky STATUS bit (60_exceptions.md R88, R89). -/
inductive Condition where
  /-- EncodingOverflow: a warning, the command completes (60_exceptions.md R90). -/
  | warnSat
  /-- ENC.T of a NaN: a warning, the command completes (60_exceptions.md R91). -/
  | warnNan
  /-- TruncatedReceiveError: the decode is skipped (60_exceptions.md R92). -/
  | errTrunc
  /-- An unassigned opcode: the command is ignored (60_exceptions.md R93). -/
  | errIllegal
deriving DecidableEq, Repr

/-- Why the machine would stop. 93_implementation_defined.md says that no TCIC behaviour is a fault, and none of the
commands raises one. -/
inductive Fault where
  /-- Raised by the shared payload accesses `memRead`, `writeBytes` and `memWrite` alone, for an access that leaves
  the addresses 0..3, which 00_scope.md R12 says never occurs. Safe: the model stops where the spec describes
  nothing; no command, in no state, reaches it. -/
  | payloadAddress (addr n : Nat)
deriving DecidableEq, Repr

/-- Why the model would give an instruction no meaning. -/
inductive Refusal where
  /-- An instruction without a meaning yet, rejected by name in `exec`'s arm. Safe: nothing is claimed of it. No arm
  of `exec` raises it: all 18 commands have their meaning. -/
  | notModelled (mnemonic : String)
deriving DecidableEq, Repr

/-- The machine's state. The first twelve fields are the tuple of 10_state.md R30, and nothing outside that tuple is
the TCIC's state; the last three are the model's own. -/
structure State where
  /-- PAYLOAD[0..3], the payload buffer (10_state.md R17). -/
  payload : Memory
  /-- LEN, the number of valid bytes in PAYLOAD, 0..4 (10_state.md R18). -/
  len : BitVec 3
  /-- DEC_CENTI, the last decoded temperature in hundredths of a degree (10_state.md R20). -/
  decCenti : Word
  /-- DEC_F32, the binary32 pattern of the last decoded temperature (10_state.md R21). -/
  decF32 : Word
  /-- STATUS.SAT, bit 0, sticky (10_state.md R22, R23). -/
  sat : Bool
  /-- STATUS.NAN, bit 1, sticky (10_state.md R22, R23). -/
  nan : Bool
  /-- STATUS.TRUNC, bit 2, sticky (10_state.md R22, R23). -/
  trunc : Bool
  /-- STATUS.ILL, bit 3, sticky (10_state.md R22, R23). -/
  ill : Bool
  /-- STATUS.FIRE, bit 4, the verdict of the latest IV.TICK (10_state.md R24). -/
  fire : Bool
  /-- STATUS.DVALID, bit 5, a DEC.T has decoded since reset (10_state.md R25). -/
  dvalid : Bool
  /-- INTERVAL, the comparator's threshold in ms (10_state.md R26). -/
  interval : Word
  /-- LAST, the mark of the last send in ms (10_state.md R27). -/
  last : Word
  /-- The MODEL's field: the value of the open parameter INTERVAL_RESET (10_state.md R31). Nothing writes it, so a
  statement over every state holds for every value of the parameter (log entry 4). -/
  intervalReset : Word
  /-- The MODEL's field: the moves the host has still to make, the next one first (70_reset_and_hazards.md R109,
  R113, log entry 1). -/
  moves : List HostMove
  /-- The MODEL's field: the response words the host has received, one per command, in order
  (70_reset_and_hazards.md R113, log entry 3). -/
  responses : List ResponseWord
deriving DecidableEq, Repr

/-- The machine right after reset where INTERVAL_RESET is `ir` (10_state.md R30, R31, 70_reset_and_hazards.md R103):
no host move pending, no response received. -/
def State.resetWith (ir : Word) : State where
  payload := []
  len := 0#3
  decCenti := 0#32
  decF32 := 0#32
  sat := false
  nan := false
  trunc := false
  ill := false
  fire := false
  dvalid := false
  interval := ir
  last := 0#32
  intervalReset := ir
  moves := []
  responses := []

/-- The machine right after reset, INTERVAL_RESET at the spec's recommended default 0xFFFFFFFF (10_state.md R31, log
entry 4). -/
def State.reset : State := State.resetWith Config.intervalResetDefault

end Sys2Proof.Machine
end

