-- ==== Sys2Proof/Machine/Operands.lean ====
section
/-! DEFINITION. How each command reads its operand (30_encoding.md R48) and the exact arithmetic on binary32 values:
`real`, `roundHalfAway` and `rne32` of 00_scope.md R10 and R11. Exact rationals are pairs numerator and denominator,
so that the kernel evaluates them. -/

namespace Sys2Proof.Machine

/-- Byte i of a 32-bit operand in payload order: `operand[31-8i : 24-8i]` (20_memory.md R35, 30_encoding.md R48). -/
def operandByte (operand : Word) (i : Nat) : Byte := operand.extractLsb' (24 - 8 * i) 8

/-- The four bytes LDP.n writes: operand bytes for i < n, 0x00 for the rest (41_payload.md R70). -/
def loadBytes (n : Nat) (operand : Word) : List Byte :=
  (List.range Config.payloadLen).map fun i => if i < n then operandByte operand i else 0x00#8

/-- The write-1-to-clear mask of CLS: `operand[3:0]` (30_encoding.md R48). -/
def clearMask (operand : Word) : BitVec 4 := operand.extractLsb' 0 4

/-- The value of a binary32 pattern (00_scope.md R10). Every finite binary32 value is a whole multiple of 2^(-149). -/
inductive Real32 where
  /-- The real number n * 2^(-149). -/
  | finite (n : Int)
  | posInf
  | negInf
  | nan
deriving DecidableEq, Repr

/-- 2^149: the denominator of every finite binary32 value (00_scope.md R10). -/
abbrev ulpDenominator : Nat := 2 ^ 149

/-- The integer with the given sign bit and magnitude. -/
def signedInt (negative : Bool) (magnitude : Nat) : Int :=
  if negative then -(magnitude : Int) else magnitude

/-- `real(b)` of 00_scope.md R10, s = b[31], e = b[30:23], m = b[22:0]; the factor 2^(-149) is `Real32.finite`'s. -/
def real (b : Word) : Real32 :=
  let s := b.getLsbD 31
  let e := (b.extractLsb' 23 8).toNat
  let m := (b.extractLsb' 0 23).toNat
  if e = 255 then
    if m = 0 then (if s then .negInf else .posInf) else .nan
  else if e = 0 then .finite (signedInt s m)
  else .finite (signedInt s ((2 ^ 23 + m) * 2 ^ (e - 1)))

/-- `roundHalfAway(num / den)`: the nearest integer, a tie to the one farther from zero (00_scope.md R11). -/
def roundHalfAway (num : Int) (den : Nat) : Int :=
  signedInt (decide (num < 0)) ((2 * num.natAbs + den) / (2 * den))

/-- The integer nearest to num / den, a tie to the even one. -/
def roundHalfEven (num den : Nat) : Nat :=
  if 2 * (num % den) < den then num / den
  else if den < 2 * (num % den) then num / den + 1
  else num / den + num / den % 2

/-- The 31 magnitude bits of the binary32 value nearest to num / den, ties to the even significand. With the value
in units of 2^(-149), a significand of 24 bits starts `j` binary places up, and exponent field and fraction together
count `j * 2^23 + significand`. A result above the largest finite value is infinity, 0x7F800000 (00_scope.md R11, log
entry 8). -/
def rneMagnitude (num den : Nat) : Nat :=
  let j := Nat.log2 (num * ulpDenominator / den) - 23
  min (j * 2 ^ 23 + roundHalfEven (num * ulpDenominator) (den * 2 ^ j)) 0x7F800000

/-- `rne32(num / den)`: the nearest binary32 pattern, ties to even; 0 gives +0 (00_scope.md R11). -/
def rne32 (num : Int) (den : Nat) : Word :=
  BitVec.ofBool (decide (num < 0)) ++ BitVec.ofNat 31 (rneMagnitude num.natAbs den)

end Sys2Proof.Machine
end

