-- ==== Sys2Proof/Machine/Flags.lean ====
section
/-! DEFINITION. The STATUS register (10_state.md R22 to R25): its sticky bits, FIRE, DVALID, and the word RDS reads. -/

namespace Sys2Proof.Machine

/-- Set the sticky bit of a condition (60_exceptions.md R88, 10_state.md R23); a bit already set stays set. -/
def State.setSticky (c : Condition) (s : State) : State :=
  match c with
  | .warnSat => { s with sat := true }
  | .warnNan => { s with nan := true }
  | .errTrunc => { s with trunc := true }
  | .errIllegal => { s with ill := true }

/-- Clear the sticky bits whose mask bit is 1: SAT by bit 0, NAN by bit 1, TRUNC by bit 2, ILL by bit 3
(43_status.md R86). -/
def State.clearSticky (mask : BitVec 4) (s : State) : State :=
  { s with
    sat := s.sat && !mask.getLsbD 0
    nan := s.nan && !mask.getLsbD 1
    trunc := s.trunc && !mask.getLsbD 2
    ill := s.ill && !mask.getLsbD 3 }

/-- Write FIRE, the verdict of a tick (10_state.md R24). -/
def State.setFire (verdict : Bool) (s : State) : State := { s with fire := verdict }

/-- The STATUS word: SAT, NAN, TRUNC, ILL, FIRE, DVALID in bits 0 to 5, LEN in bits 10:8, every other bit 0
(43_status.md R85, 10_state.md R22). -/
def State.status (s : State) : Word :=
  (s.len ++ 0#2 ++ BitVec.ofBool s.dvalid ++ BitVec.ofBool s.fire ++ BitVec.ofBool s.ill
    ++ BitVec.ofBool s.trunc ++ BitVec.ofBool s.nan ++ BitVec.ofBool s.sat).setWidth 32

end Sys2Proof.Machine
end

