-- ==== Sys2Proof/Machine/Ops.lean ====
section
/-! DEFINITION. The operations the commands share: the payload as memory (20_memory.md), `MemRead`, `MemWrite`,
`respond` and `raise` (00_scope.md R12, 60_exceptions.md R89), the narrowings `u32` and `s32` (00_scope.md R8) and the
external reset (70_reset_and_hazards.md R103).

`raise` is all there is of taking an exception: nothing is saved, no mode changes and control goes nowhere
(60_exceptions.md R89, R96); a return from one does not exist (R97). -/

namespace Sys2Proof.Machine

/-- `u32(x)`: x mod 2^32 (00_scope.md R8). -/
def u32 (x : Int) : Word := BitVec.ofInt 32 x

/-- `s32(x)`: the two's-complement pattern of x (00_scope.md R8). -/
def s32 (x : Int) : Word := BitVec.ofInt 32 x

/-- What an unlisted payload byte reads as: 0x00, the reset value of PAYLOAD (10_state.md R30). -/
def unlistedByte : Byte := 0x00#8

/-- The byte at an address. -/
def Memory.lookup (m : Memory) (a : Nat) : Byte :=
  match m with
  | [] => unlistedByte
  | c :: rest => if c.1 = a then c.2 else Memory.lookup rest a

/-- A cell put before the first cell of a higher address. -/
def Memory.insertCell (m : Memory) (a : Nat) (v : Byte) : Memory :=
  match m with
  | [] => [(a, v)]
  | c :: rest => if a < c.1 then (a, v) :: c :: rest else c :: Memory.insertCell rest a v

/-- The memory with the byte `v` at address `a`, every other byte as before; a byte equal to what an unlisted address
reads as is not listed. -/
def Memory.store (m : Memory) (a : Nat) (v : Byte) : Memory :=
  if v = unlistedByte then m.filter (fun c => c.1 ≠ a)
  else Memory.insertCell (m.filter (fun c => c.1 ≠ a)) a v

/-- Bytes stored at consecutive rising addresses from `a` on. -/
def Memory.storeAll (m : Memory) (a : Nat) : List Byte → Memory
  | [] => m
  | b :: bs => Memory.storeAll (Memory.store m a b) (a + 1) bs

/-- The canonical form: every address one of 0..3 (20_memory.md R32), addresses strictly rising, no listed byte equal
to what an unlisted address reads as. -/
def Memory.wf : Memory → Bool
  | [] => true
  | c :: rest =>
    decide (c.1 < Config.payloadLen) && decide (c.2 ≠ unlistedByte) && rest.all (fun d => decide (c.1 < d.1))
      && Memory.wf rest

/-- `PAYLOAD[a]`; an address above 3 does not exist (20_memory.md R32) and faults. -/
def readByte (a : Nat) (s : State) : Except Fault Byte :=
  if a < Config.payloadLen then .ok (s.payload.lookup a) else .error (.payloadAddress a 1)

/-- `PAYLOAD[addr] : ... : PAYLOAD[addr+n-1]`, the lowest address most significant (00_scope.md R12, 20_memory.md
R33). -/
def bigEndianAt (m : Memory) (addr : Nat) : (n : Nat) → BitVec (8 * n)
  | 0 => 0#0
  | n + 1 => bigEndianAt m addr n ++ m.lookup (addr + n)

/-- `MemRead(addr, n)` (00_scope.md R12). -/
def memRead (addr n : Nat) (s : State) : Except Fault (BitVec (8 * n)) :=
  if addr + n ≤ Config.payloadLen then .ok (bigEndianAt s.payload addr n)
  else .error (.payloadAddress addr n)

/-- Write a list of bytes to PAYLOAD from `addr` on. -/
def writeBytes (addr : Nat) (bs : List Byte) (s : State) : Except Fault State :=
  if addr + bs.length ≤ Config.payloadLen then .ok { s with payload := s.payload.storeAll addr bs }
  else .error (.payloadAddress addr bs.length)

/-- The bytes of an 8n-bit value, most significant first: byte i is `v[8(n-i)-1 : 8(n-i)-8]` (00_scope.md R12). -/
def bytesOf (n : Nat) (v : BitVec (8 * n)) : List Byte :=
  (List.range n).map fun i => v.extractLsb' (8 * (n - i) - 8) 8

/-- `MemWrite(addr, n, v)` (00_scope.md R12). -/
def memWrite (addr n : Nat) (v : BitVec (8 * n)) (s : State) : Except Fault State :=
  writeBytes addr (bytesOf n v) s

/-- Go on with the value of a payload access, or stop with its fault. -/
def onPayload {α : Type} (r : Except Fault α) (k : α → Host.Outcome State Fault Refusal) :
    Host.Outcome State Fault Refusal :=
  match r with
  | .ok a => k a
  | .error f => .fault f

/-- The 3-bit code of an outcome (60_exceptions.md R88). -/
def codeBits : OutcomeCode → BitVec 3
  | .ok => 0#3
  | .warnSat => 1#3
  | .warnNan => 2#3
  | .errTrunc => 3#3
  | .errIllegal => 4#3

/-- The outcome a condition's response carries (60_exceptions.md R88). -/
def codeOf : Condition → OutcomeCode
  | .warnSat => .warnSat
  | .warnNan => .warnNan
  | .errTrunc => .errTrunc
  | .errIllegal => .errIllegal

/-- The response word `code : data` (30_encoding.md R45). -/
def responseWord (code : OutcomeCode) (data : Word) : ResponseWord := codeBits code ++ data

/-- The `code` field of a response word, bits 34:32 (30_encoding.md R45). -/
def responseCode (r : ResponseWord) : BitVec 3 := r.extractLsb' 32 3

/-- The `data` field of a response word, bits 31:0 (30_encoding.md R45). -/
def responseData (r : ResponseWord) : Word := r.extractLsb' 0 32

/-- The outcome and data the host reads from a response word; codes 5, 6 and 7 are never produced and read as none
(60_exceptions.md R88, 93_implementation_defined.md I11). -/
def decodeResponse (r : ResponseWord) : Option (OutcomeCode × Word) :=
  match responseCode r with
  | 0#3 => some (.ok, responseData r)
  | 1#3 => some (.warnSat, responseData r)
  | 2#3 => some (.warnNan, responseData r)
  | 3#3 => some (.errTrunc, responseData r)
  | 4#3 => some (.errIllegal, responseData r)
  | _ => none

/-- Hand the host a response word. -/
def State.appendResponse (r : ResponseWord) (s : State) : State :=
  { s with responses := s.responses ++ [r] }

/-- `respond(code, data)` ends the step (00_scope.md R12). -/
def respond (code : OutcomeCode) (data : Word) (s : State) : Host.Outcome State Fault Refusal :=
  .next (s.appendResponse (responseWord code data))

/-- `raise X(info)`: set X's sticky bit, then respond with X's code (60_exceptions.md R89). -/
def raise (c : Condition) (info : Word) (s : State) : Host.Outcome State Fault Refusal :=
  respond (codeOf c) info (s.setSticky c)

/-- A command word whose `op` is unassigned: ERR_ILLEGAL, nothing but STATUS.ILL changes (60_exceptions.md R93,
30_encoding.md R51). -/
def execIllegal (op : Byte) (s : State) : Host.Outcome State Fault Refusal :=
  raise .errIllegal (op.setWidth 32) s

/-- The external reset (70_reset_and_hazards.md R103): every element of the state takes its reset value; the host's
own moves and the responses it has received are not the TCIC's (log entry 6). -/
def State.applyReset (s : State) : State :=
  { State.resetWith s.intervalReset with moves := s.moves, responses := s.responses }

/-- Write LEN (10_state.md R18). -/
def State.setLen (n : BitVec 3) (s : State) : State := { s with len := n }

/-- Write INTERVAL (10_state.md R26). -/
def State.setInterval (v : Word) (s : State) : State := { s with interval := v }

/-- Write LAST (10_state.md R27). -/
def State.setLast (v : Word) (s : State) : State := { s with last := v }

/-- Write the results of a decode: DEC_CENTI, DEC_F32, and DVALID set (40_codec.md R61). -/
def State.setDecoded (centi f32 : Word) (s : State) : State :=
  { s with decCenti := centi, decF32 := f32, dvalid := true }

end Sys2Proof.Machine
end

