-- ==== Sys2Proof/Machine/Codec.lean ====
section
/-! DEFINITION. The temperature codec: ENC.T and DEC.T (40_codec.md). -/

namespace Sys2Proof.Machine

/-- The o of `encRaw` (40_codec.md R58). -/
inductive EncOutcome where
  | ok
  | sat
  | nan
deriving DecidableEq, Repr

/-- The saturating clamp of the rounded integer (40_codec.md R58). -/
def clampRaw (r : Int) : Raw × EncOutcome :=
  if r < 0 then (0x0000#16, .sat)
  else if Config.rawMax < r then (0xFFFF#16, .sat)
  else (BitVec.ofInt 16 r, .ok)

/-- `encRaw(b)` (40_codec.md R58): x = (v + 200) * 100 exactly, rounded half away from zero, then clamped. -/
def encRaw (b : Word) : Raw × EncOutcome :=
  match real b with
  | .nan => (0x0000#16, .nan)
  | .posInf => (0xFFFF#16, .sat)
  | .negInf => (0x0000#16, .sat)
  | .finite n =>
    clampRaw (roundHalfAway ((n + Config.tempOffsetC * ulpDenominator) * Config.tempScale) ulpDenominator)

/-- `decCenti(raw)`: raw - 20000 (40_codec.md R60). -/
def decCenti (raw : Raw) : Int := (raw.toNat : Int) - Config.tempOffsetRaw

/-- `decF32(raw)`: rne32((raw - 20000) / 100) (40_codec.md R60). -/
def decF32 (raw : Raw) : Word := rne32 (decCenti raw) 100

/-- The data of ERR_TRUNC: expected length 4 in bits 15:8, the actual length in bits 7:0 (60_exceptions.md R88). -/
def truncInfo (len : BitVec 3) : Word := 0x00000400#32 ||| len.setWidth 32

/-- ENC.T: encode temperature (40_codec.md R59). All three outcomes write PAYLOAD and LEN. -/
def execEncT (operand : Word) (s : State) : Host.Outcome State Fault Refusal :=
  let raw := (encRaw operand).1
  onPayload (memWrite 0 4 (raw ++ 0x0000#16) s) fun t =>
    match (encRaw operand).2 with
    | .ok => respond .ok (raw.setWidth 32) (t.setLen 4#3)
    | .sat => raise .warnSat (raw.setWidth 32) (t.setLen 4#3)
    | .nan => raise .warnNan (raw.setWidth 32) (t.setLen 4#3)

/-- DEC.T: decode temperature (40_codec.md R61). LEN is tested before the payload is read (60_exceptions.md R94). -/
def execDecT (_operand : Word) (s : State) : Host.Outcome State Fault Refusal :=
  if s.len ≠ 4#3 then raise .errTrunc (truncInfo s.len) s
  else onPayload (memRead 0 2 s) fun raw =>
    respond .ok (s32 (decCenti raw)) (s.setDecoded (s32 (decCenti raw)) (decF32 raw))

end Sys2Proof.Machine
end

