-- ==== Sys2Proof/Machine/Interval.lean ====
section
/-! DEFINITION. The interval comparator commands (42_interval.md). -/

namespace Sys2Proof.Machine

/-- `elapsed(now, last)`: u32(now - last) (42_interval.md R74). -/
def elapsed (now last : Word) : Word := u32 ((now.toNat : Int) - (last.toNat : Int))

/-- IV.SETI: set INTERVAL (42_interval.md R75). -/
def execIvSetI (operand : Word) (s : State) : Host.Outcome State Fault Refusal :=
  respond .ok operand (s.setInterval operand)

/-- IV.SETL: set LAST (42_interval.md R76). -/
def execIvSetL (operand : Word) (s : State) : Host.Outcome State Fault Refusal :=
  respond .ok operand (s.setLast operand)

/-- IV.TICK: fire when the elapsed time is strictly above INTERVAL, unsigned; a fire moves LAST to `now`
(42_interval.md R77). -/
def execIvTick (operand : Word) (s : State) : Host.Outcome State Fault Refusal :=
  if s.interval.toNat < (elapsed operand s.last).toNat then
    respond .ok 0x00000001#32 ((s.setLast operand).setFire true)
  else respond .ok 0x00000000#32 (s.setFire false)

/-- IV.RDI: read INTERVAL (42_interval.md R78). -/
def execIvRdI (_operand : Word) (s : State) : Host.Outcome State Fault Refusal := respond .ok s.interval s

/-- IV.RDL: read LAST (42_interval.md R79). -/
def execIvRdL (_operand : Word) (s : State) : Host.Outcome State Fault Refusal := respond .ok s.last s

end Sys2Proof.Machine
end

