-- ==== Sys2Proof/Machine/Payload.lean ====
section
/-! DEFINITION. The payload buffer commands LDP.0 to LDP.4 and RDP (41_payload.md). -/

namespace Sys2Proof.Machine

/-- LDP.n: n operand bytes, zero padding, LEN = n (41_payload.md R70). -/
def loadPayload (n : Nat) (operand : Word) (s : State) : Host.Outcome State Fault Refusal :=
  onPayload (writeBytes 0 (loadBytes n operand) s) fun t =>
    respond .ok (BitVec.ofNat 32 n) (t.setLen (BitVec.ofNat 3 n))

/-- LDP.0: clear the payload, LEN = 0; the operand is ignored (41_payload.md R70). -/
def execLdp0 (operand : Word) (s : State) : Host.Outcome State Fault Refusal := loadPayload 0 operand s

/-- LDP.1: load byte 0 (41_payload.md R70). -/
def execLdp1 (operand : Word) (s : State) : Host.Outcome State Fault Refusal := loadPayload 1 operand s

/-- LDP.2: load bytes 0..1 (41_payload.md R70). -/
def execLdp2 (operand : Word) (s : State) : Host.Outcome State Fault Refusal := loadPayload 2 operand s

/-- LDP.3: load bytes 0..2 (41_payload.md R70). -/
def execLdp3 (operand : Word) (s : State) : Host.Outcome State Fault Refusal := loadPayload 3 operand s

/-- LDP.4: load bytes 0..3 (41_payload.md R70). -/
def execLdp4 (operand : Word) (s : State) : Host.Outcome State Fault Refusal := loadPayload 4 operand s

/-- RDP: read all four payload bytes, LEN not checked (41_payload.md R71). -/
def execRdp (_operand : Word) (s : State) : Host.Outcome State Fault Refusal :=
  onPayload (memRead 0 4 s) fun v => respond .ok v s

end Sys2Proof.Machine
end

