-- ==== Sys2Proof/Machine/Status.lean ====
section
/-! DEFINITION. The result, status and control commands NOP, RDC, RDF, RDS and CLS (43_status.md). -/

namespace Sys2Proof.Machine

/-- NOP (43_status.md R82). -/
def execNop (_operand : Word) (s : State) : Host.Outcome State Fault Refusal := respond .ok 0x00000000#32 s

/-- RDC: read DEC_CENTI, DVALID not checked (43_status.md R83). -/
def execRdc (_operand : Word) (s : State) : Host.Outcome State Fault Refusal := respond .ok s.decCenti s

/-- RDF: read DEC_F32, DVALID not checked (43_status.md R84). -/
def execRdf (_operand : Word) (s : State) : Host.Outcome State Fault Refusal := respond .ok s.decF32 s

/-- RDS: read STATUS; reading clears nothing (43_status.md R85). -/
def execRds (_operand : Word) (s : State) : Host.Outcome State Fault Refusal := respond .ok s.status s

/-- CLS: clear the masked sticky bits, then respond with STATUS after the clear (43_status.md R86). -/
def execCls (operand : Word) (s : State) : Host.Outcome State Fault Refusal :=
  respond .ok (s.clearSticky (clearMask operand)).status (s.clearSticky (clearMask operand))

end Sys2Proof.Machine
end

