-- ==== Sys2Proof/Machine/Dispatch.lean ====
section
/-! DEFINITION. One arm per command: the meaning it calls. -/

namespace Sys2Proof.Machine

/-- The meaning of each command of 30_encoding.md R47. -/
def exec (i : Instr) (s : State) : Host.Outcome State Fault Refusal :=
  match i with
  | .nop operand => Sys2Proof.Machine.execNop operand s
  | .encT operand => Sys2Proof.Machine.execEncT operand s
  | .decT operand => Sys2Proof.Machine.execDecT operand s
  | .ldp0 operand => Sys2Proof.Machine.execLdp0 operand s
  | .ldp1 operand => Sys2Proof.Machine.execLdp1 operand s
  | .ldp2 operand => Sys2Proof.Machine.execLdp2 operand s
  | .ldp3 operand => Sys2Proof.Machine.execLdp3 operand s
  | .ldp4 operand => Sys2Proof.Machine.execLdp4 operand s
  | .rdp operand => Sys2Proof.Machine.execRdp operand s
  | .rdc operand => Sys2Proof.Machine.execRdc operand s
  | .rdf operand => Sys2Proof.Machine.execRdf operand s
  | .rds operand => Sys2Proof.Machine.execRds operand s
  | .cls operand => Sys2Proof.Machine.execCls operand s
  | .ivSetI operand => Sys2Proof.Machine.execIvSetI operand s
  | .ivSetL operand => Sys2Proof.Machine.execIvSetL operand s
  | .ivTick operand => Sys2Proof.Machine.execIvTick operand s
  | .ivRdI operand => Sys2Proof.Machine.execIvRdI operand s
  | .ivRdL operand => Sys2Proof.Machine.execIvRdL operand s

end Sys2Proof.Machine
end

