-- ==== Sys2Proof/Machine/HostPort.lean ====
section
/-! DEFINITION. The command port: how the TCIC takes the host's next move (00_scope.md R6, R7, 20_memory.md R41). The
TCIC has no program counter and fetches nothing (10_state.md R16): the host's moves are its program. -/

namespace Sys2Proof.Machine

/-- Write the list of the moves the host has still to make. -/
def State.setMoves (ms : List HostMove) (s : State) : State := { s with moves := ms }

/-- One command word: an unassigned opcode is ERR_ILLEGAL before anything else is evaluated, otherwise the command's
own rule decides (60_exceptions.md R94). -/
def runCommand (w : CommandWord) (s : State) : Host.Outcome State Fault Refusal :=
  match decode w with
  | .ok i => exec i s
  | .error (.unassignedOpcode op) => execIllegal op s

/-- The host's next move happens. Where it has none the TCIC is idle and nothing changes: it never initiates anything
(00_scope.md R6, 70_reset_and_hazards.md R104, R109, log entry 2). -/
def takeMove (s : State) : Host.Outcome State Fault Refusal :=
  match s.moves with
  | [] => .next s
  | .command w :: rest => runCommand w (s.setMoves rest)
  | .reset :: rest => .next (s.setMoves rest).applyReset

/-- The state with a command word in front of the host's moves (log entry 1). -/
def State.offerCommand (w : CommandWord) (s : State) : State := s.setMoves (.command w :: s.moves)

end Sys2Proof.Machine
end

