-- ==== Sys2Proof/Machine/Step.lean ====
section
/-! DEFINITION. One step of the machine, and the host's way to place a command where the step takes its next one. -/

namespace Sys2Proof.Machine

/-- One step: the host's next move happens (00_scope.md R7, 20_memory.md R41). -/
def step (s : State) : Host.Outcome State Fault Refusal := takeMove s

/-- `s` with the command word `w` (bits above `nbits` zero) as the host's next move, before the moves it already has
to make (log entry 1). -/
def State.withFetchWord (s : State) (nbits w : Nat) : State :=
  s.offerCommand (BitVec.ofNat 40 (w % 2 ^ nbits))

end Sys2Proof.Machine
end

