-- ==== Sys2Proof/Machine/Assembler.lean ====
section
/-! DEFINITION. The assembly language of 30_encoding.md R54 to R57: mnemonics, the disassembler, the four
pseudo-instructions and their expansions, and an assembler of one line. It is tooling (92_eei_decisions.md D29): the
machine's step uses nothing of it. -/

namespace Sys2Proof.Machine

/-- The name of a command (30_encoding.md R47, R54). -/
def mnemonic : Instr → String
  | .nop _ => "NOP"
  | .encT _ => "ENC.T"
  | .decT _ => "DEC.T"
  | .ldp0 _ => "LDP.0"
  | .ldp1 _ => "LDP.1"
  | .ldp2 _ => "LDP.2"
  | .ldp3 _ => "LDP.3"
  | .ldp4 _ => "LDP.4"
  | .rdp _ => "RDP"
  | .rdc _ => "RDC"
  | .rdf _ => "RDF"
  | .rds _ => "RDS"
  | .cls _ => "CLS"
  | .ivSetI _ => "IV.SETI"
  | .ivSetL _ => "IV.SETL"
  | .ivTick _ => "IV.TICK"
  | .ivRdI _ => "IV.RDI"
  | .ivRdL _ => "IV.RDL"

/-- The command a mnemonic in upper case names, given its operand (30_encoding.md R54). -/
def commandNamed (name : String) (x : Word) : Option Instr :=
  match name with
  | "NOP" => some (.nop x)
  | "ENC.T" => some (.encT x)
  | "DEC.T" => some (.decT x)
  | "LDP.0" => some (.ldp0 x)
  | "LDP.1" => some (.ldp1 x)
  | "LDP.2" => some (.ldp2 x)
  | "LDP.3" => some (.ldp3 x)
  | "LDP.4" => some (.ldp4 x)
  | "RDP" => some (.rdp x)
  | "RDC" => some (.rdc x)
  | "RDF" => some (.rdf x)
  | "RDS" => some (.rds x)
  | "CLS" => some (.cls x)
  | "IV.SETI" => some (.ivSetI x)
  | "IV.SETL" => some (.ivSetL x)
  | "IV.TICK" => some (.ivTick x)
  | "IV.RDI" => some (.ivRdI x)
  | "IV.RDL" => some (.ivRdL x)
  | _ => none

/-- One hexadecimal digit, upper case. -/
def hexDigit (n : Nat) : Char :=
  if n < 10 then Char.ofNat (48 + n) else Char.ofNat (55 + n)

/-- The `k` low hexadecimal digits of a number, most significant first. -/
def hexDigits (k n : Nat) : List Char :=
  (List.range k).map fun i => hexDigit (n / 16 ^ (k - 1 - i) % 16)

/-- A byte as `0xOO` (30_encoding.md R55). -/
def hexByte (b : Byte) : String := "0x" ++ String.ofList (hexDigits 2 b.toNat)

/-- A word as `0xDDDDDDDD` (30_encoding.md R55). -/
def hexWord (x : Word) : String := "0x" ++ String.ofList (hexDigits 8 x.toNat)

/-- The disassembler (30_encoding.md R55): the operand in hex only for commands that use it, an illegal word as
`.cmd 0xOO, 0xDDDDDDDD`. -/
def disassemble (w : CommandWord) : String :=
  match decode w with
  | .ok i => if i.ignoresOperand then mnemonic i else mnemonic i ++ " " ++ hexWord i.operand
  | .error (.unassignedOpcode op) => ".cmd " ++ hexByte op ++ ", " ++ hexWord (operandField w)

/-- The pseudo-instructions of 30_encoding.md R56. -/
inductive Pseudo where
  /-- `ENC.TD <decimal>`, the decimal as the exact rational num / den. -/
  | encTD (num : Int) (den : Nat)
  /-- `LDB b0[, b1[, b2[, b3]]]`, or `LDB` with no bytes. -/
  | ldb (bytes : List Byte)
  /-- `CLS.ALL`. -/
  | clsAll
  /-- `IV.INIT <interval>, <last>`. -/
  | ivInit (interval last : Word)
deriving DecidableEq, Repr

/-- Why a source line assembles to nothing (log entry 9). -/
inductive AsmError where
  /-- The line's first word names no command and no pseudo-instruction (30_encoding.md R54, R56). -/
  | unknownMnemonic
  /-- Too many or too few operands for the command (30_encoding.md R54, R56). -/
  | operandCount
  /-- An operand that is no number of the required form or width (30_encoding.md R54, R56). -/
  | badOperand
deriving DecidableEq, Repr

/-- The operand `b0 : b1 : b2 : b3` of an LDB, missing bytes 0x00 (30_encoding.md R56). -/
def ldbOperand (bytes : List Byte) : Word :=
  bytes.getD 0 0#8 ++ bytes.getD 1 0#8 ++ bytes.getD 2 0#8 ++ bytes.getD 3 0#8

/-- The commands a pseudo-instruction expands to (30_encoding.md R56). An LDB of more than four bytes has none
(DESIGN CHOICE, log entry 9). -/
def expand : Pseudo → Except AsmError (List Instr)
  | .encTD num den => .ok [.encT (rne32 num den)]
  | .ldb bytes =>
    match bytes.length with
    | 0 => .ok [.ldp0 (ldbOperand bytes)]
    | 1 => .ok [.ldp1 (ldbOperand bytes)]
    | 2 => .ok [.ldp2 (ldbOperand bytes)]
    | 3 => .ok [.ldp3 (ldbOperand bytes)]
    | 4 => .ok [.ldp4 (ldbOperand bytes)]
    | _ => .error .operandCount
  | .clsAll => .ok [.cls 0x0000000F#32]
  | .ivInit interval last => .ok [.ivSetI interval, .ivSetL last]

/-- White space between the parts of a line. -/
def isBlank (c : Char) : Bool := c == ' ' || c == '\t'

/-- A piece of a line without the white space at its two ends. -/
def trimChars (cs : List Char) : List Char :=
  ((cs.dropWhile isBlank).reverse.dropWhile isBlank).reverse

/-- The pieces of a line between commas. -/
def splitCommas : List Char → List (List Char)
  | [] => [[]]
  | c :: cs =>
    if c = ',' then [] :: splitCommas cs
    else
      match splitCommas cs with
      | [] => [[c]]
      | p :: ps => (c :: p) :: ps

/-- The value of a digit in a base up to 16; letters in either case. -/
def digitValue (base : Nat) (c : Char) : Option Nat :=
  let n := c.toNat
  let v :=
    if 48 ≤ n ∧ n ≤ 57 then some (n - 48)
    else if 65 ≤ n ∧ n ≤ 70 then some (n - 55)
    else if 97 ≤ n ∧ n ≤ 102 then some (n - 87)
    else none
  v.filter (· < base)

/-- The number a string of digits writes, read on from `acc`. -/
def readDigits (base : Nat) (acc : Nat) : List Char → Option Nat
  | [] => some acc
  | c :: cs =>
    match digitValue base c with
    | some d => readDigits base (acc * base + d) cs
    | none => none

/-- An unsigned integer: decimal digits, or `0x` and 1 to 8 hex digits (30_encoding.md R54). The letters of a hex digit
may be in either case and the `x` is lower case (log entry 9). -/
def readNumber : List Char → Option Nat
  | [] => none
  | '0' :: 'x' :: ds => if ds.length = 0 ∨ 8 < ds.length then none else readDigits 16 0 ds
  | ds => readDigits 10 0 ds

/-- An unsigned 32-bit integer operand (30_encoding.md R54). -/
def readWord (cs : List Char) : Except AsmError Word :=
  match readNumber cs with
  | some n => if n < 2 ^ 32 then .ok (BitVec.ofNat 32 n) else .error .badOperand
  | none => .error .badOperand

/-- A byte operand, 0..255 (30_encoding.md R56), in the forms of an operand of R54 (log entry 9). -/
def readByteOperand (cs : List Char) : Except AsmError Byte :=
  match readNumber cs with
  | some n => if n < 256 then .ok (BitVec.ofNat 8 n) else .error .badOperand
  | none => .error .badOperand

/-- The byte operands of an LDB. -/
def readBytes : List (List Char) → Except AsmError (List Byte)
  | [] => .ok []
  | p :: ps =>
    match readByteOperand p, readBytes ps with
    | .ok b, .ok bs => .ok (b :: bs)
    | .error e, _ => .error e
    | _, .error e => .error e

/-- An unsigned decimal literal, as numerator and denominator: decimal digits with at most one point, at least one
digit in all. R56 says only "with an optional sign and fraction"; that the digits before the point (`.5`) or after it
(`25.`) may be missing is the model's choice (DESIGN CHOICE, log entry 9). -/
def readUnsignedDecimal (cs : List Char) : Option (Nat × Nat) :=
  let whole := cs.takeWhile (· ≠ '.')
  let frac := (cs.dropWhile (· ≠ '.')).drop 1
  if whole.length + frac.length = 0 then none
  else
    match readDigits 10 0 (whole ++ frac) with
    | some n => some (n, 10 ^ frac.length)
    | none => none

/-- A decimal literal with an optional sign and fraction (30_encoding.md R56), the sign `-` or `+` with no space after
it (log entry 9). The decimal is an exact rational, so `-0.0` is 0 and its pattern is 00_scope.md R11's rne32(0) = +0,
0x00000000, where 95_test_vectors.md V-ENC-3 lists −0.0 beside the operand 0x80000000: the spec's files disagree and the
model follows R11 (DESIGN CHOICE, log entry 9). -/
def readDecimal (cs : List Char) : Except AsmError Pseudo :=
  match cs with
  | '-' :: ds =>
    match readUnsignedDecimal ds with
    | some (n, d) => .ok (.encTD (-(n : Int)) d)
    | none => .error .badOperand
  | '+' :: ds =>
    match readUnsignedDecimal ds with
    | some (n, d) => .ok (.encTD n d)
    | none => .error .badOperand
  | ds =>
    match readUnsignedDecimal ds with
    | some (n, d) => .ok (.encTD n d)
    | none => .error .badOperand

/-- A pseudo-instruction's command words. -/
def assemblePseudo (p : Except AsmError Pseudo) : Except AsmError (List CommandWord) :=
  match p with
  | .ok q =>
    match expand q with
    | .ok is => .ok (is.map encode)
    | .error e => .error e
  | .error e => .error e

/-- A command by name with its operands: none for a command that ignores its operand, which assembles with operand 0,
one for any other (30_encoding.md R54). -/
def assembleCommand (name : String) (operands : List (List Char)) : Except AsmError (List CommandWord) :=
  match commandNamed name 0#32, operands with
  | none, _ => .error .unknownMnemonic
  | some i, [] => if i.ignoresOperand then .ok [encode i] else .error .operandCount
  | some i, [p] =>
    if i.ignoresOperand then .error .operandCount
    else
      match readWord p with
      | .ok x => .ok [commandWord i.opcode x]
      | .error e => .error e
  | some _, _ => .error .operandCount

/-- A line's name, in upper case, and its operands, to command words (30_encoding.md R54, R56; `.cmd` is the form
R55 prints and the programs of 95_test_vectors.md write, log entry 9). -/
def assembleParts (name : String) (operands : List (List Char)) : Except AsmError (List CommandWord) :=
  match name, operands with
  | "ENC.TD", [p] => assemblePseudo (readDecimal p)
  | "ENC.TD", _ => .error .operandCount
  | "LDB", ps =>
    assemblePseudo (match readBytes ps with
      | .ok bs => .ok (.ldb bs)
      | .error e => .error e)
  | "CLS.ALL", [] => assemblePseudo (.ok .clsAll)
  | "CLS.ALL", _ => .error .operandCount
  | "IV.INIT", [p, q] =>
    assemblePseudo (match readWord p, readWord q with
      | .ok x, .ok y => .ok (.ivInit x y)
      | .error e, _ => .error e
      | _, .error e => .error e)
  | "IV.INIT", _ => .error .operandCount
  | ".CMD", [p, q] =>
    match readByteOperand p, readWord q with
    | .ok op, .ok x => .ok [commandWord op x]
    | .error e, _ => .error e
    | _, .error e => .error e
  | ".CMD", _ => .error .operandCount
  | other, ps => assembleCommand other ps

/-- One source line `MNEMONIC [operand] [; comment]` to its command words; the mnemonic in any case; a line with
nothing before its comment gives none (30_encoding.md R54). -/
def assembleLine (line : String) : Except AsmError (List CommandWord) :=
  let body := trimChars (line.toList.takeWhile (· ≠ ';'))
  let name := body.takeWhile (fun c => !isBlank c)
  let rest := trimChars (body.dropWhile (fun c => !isBlank c))
  if body = [] then .ok []
  else
    assembleParts (String.ofList (name.map Char.toUpper))
      (if rest = [] then [] else (splitCommas rest).map trimChars)

/-- A program of source lines to the host's command words, in order (30_encoding.md R54). -/
def assemble : List String → Except AsmError (List CommandWord)
  | [] => .ok []
  | l :: ls =>
    match assembleLine l, assemble ls with
    | .ok ws, .ok rest => .ok (ws ++ rest)
    | .error e, _ => .error e
    | _, .error e => .error e

end Sys2Proof.Machine
end

