-- ==== Sys2Proof/Machine/Exact.lean ====
section
/-! DEFINITION. The codec's arithmetic written over the rationals: the formula of 40_codec.md R58 as it stands there,
and the double-precision evaluation of the source's formulas that 40_codec.md R68 compares it with. The machine's
step uses nothing of this file; statements compare `encRaw` and `decF32` with it. -/

namespace Sys2Proof.Machine

/-- The rational value n * 2^(-149) of a finite binary32 (00_scope.md R10). -/
def ulpsToRat (n : Int) : ℚ := (n : ℚ) * (2 : ℚ) ^ (-149 : ℤ)

/-- `roundHalfAway(x)` on a rational (00_scope.md R11). -/
def roundHalfAwayRat (x : ℚ) : ℤ := if 0 ≤ x then ⌊x + 1 / 2⌋ else ⌈x - 1 / 2⌉

/-- `encRaw(b)` with x = (v + 200) * 100 as an exact rational (40_codec.md R58). -/
def encRawRat (b : Word) : Raw × EncOutcome :=
  match real b with
  | .nan => (0x0000#16, .nan)
  | .posInf => (0xFFFF#16, .sat)
  | .negInf => (0x0000#16, .sat)
  | .finite n => clampRaw (roundHalfAwayRat ((ulpsToRat n + 200) * 100))

/-- The integer nearest to a rational, a tie to the even one. -/
def roundHalfEvenRat (y : ℚ) : ℤ :=
  if y - ⌊y⌋ < 1 / 2 then ⌊y⌋
  else if 1 / 2 < y - ⌊y⌋ then ⌊y⌋ + 1
  else ⌊y⌋ + ⌊y⌋ % 2

/-- The IEEE-754 binary64 value nearest to a rational, ties to even, for rationals below the overflow threshold
(PRESUMED, log entry 10: 40_codec.md R68 takes binary64 from general knowledge). -/
def roundBinary64 (x : ℚ) : ℚ :=
  let unit := (2 : ℚ) ^ (max (Int.log 2 |x| - 52) (-1074))
  (roundHalfEvenRat (x / unit) : ℚ) * unit

/-- `round((value + 200.0) * 100.0)` in double precision, for the finite value n * 2^(-149), then the clamp
(40_codec.md R68). -/
def encFiniteDouble (n : Int) : Raw × EncOutcome :=
  clampRaw (roundHalfAwayRat (roundBinary64 (roundBinary64 (ulpsToRat n + 200) * 100)))

/-- `raw / 100.0 - 200.0` in double precision, narrowed to binary32 (40_codec.md R68). -/
def decF32Double (raw : Raw) : Word :=
  let d := roundBinary64 (roundBinary64 ((raw.toNat : ℚ) / 100) - 200)
  rne32 d.num d.den

end Sys2Proof.Machine
end

