-- ==== Sys2Proof/Safety.lean ====
section
/-! DEFINITION. The terms in which statements about the TCIC are made: runs of host moves (70_reset_and_hazards.md
R113), the invariant of its state, and what the rules call nearest, monotone, firing and sticky. -/

namespace Sys2Proof.Machine

/-- `k` steps, stopping at the first fault or refusal. -/
def steps : Nat → State → Host.Outcome State Fault Refusal
  | 0, s => .next s
  | k + 1, s =>
    match step s with
    | .next t => steps k t
    | .fault f => .fault f
    | .refused r => .refused r

/-- The host makes the given moves, one a step, from the registers of `s` (70_reset_and_hazards.md R113). The result
of a run is the `responses` and the registers of the state it ends in. -/
def runMoves (ms : List HostMove) (s : State) : Host.Outcome State Fault Refusal :=
  steps ms.length (s.setMoves ms)

/-- The host issues the given commands in order. -/
def runCommands (is : List Instr) (s : State) : Host.Outcome State Fault Refusal :=
  runMoves (is.map fun i => .command (encode i)) s

/-- TEMP_RAW, the 16-bit view `PAYLOAD[0] : PAYLOAD[1]` (10_state.md R19). -/
def State.tempRaw (s : State) : Raw := s.payload.lookup 0 ++ s.payload.lookup 1

/-- What every state between two host moves satisfies: the payload memory in canonical form; LEN a legal value
(10_state.md R18); zero bytes from LEN on (41_payload.md R70); the decode registers at their reset value while
DVALID = 0 and the decode of some raw value after (10_state.md R20, R21, R25); every response code one of 0..4
(60_exceptions.md R88). -/
structure Inv (s : State) : Prop where
  payloadCanonical : s.payload.wf = true
  lenLegal : s.len.toNat ≤ 4
  zeroPadded : ∀ a, s.len.toNat ≤ a → s.payload.lookup a = 0x00#8
  decodeReset : s.dvalid = false → s.decCenti = 0#32 ∧ s.decF32 = 0#32
  decodeOfRaw : s.dvalid = true → ∃ raw : Raw, s.decCenti = s32 (decCenti raw) ∧ s.decF32 = decF32 raw
  codesLegal : ∀ r ∈ s.responses, (responseCode r).toNat ≤ 4

/-- The 18 assigned opcodes of 30_encoding.md R47. -/
def assignedOpcodes : List Byte :=
  [0x00#8, 0x10#8, 0x11#8, 0x20#8, 0x21#8, 0x22#8, 0x23#8, 0x24#8, 0x28#8, 0x30#8, 0x31#8, 0x38#8, 0x39#8, 0x40#8,
    0x41#8, 0x42#8, 0x48#8, 0x49#8]

/-- The unassigned ranges of 30_encoding.md R51, as it lists them. -/
def unassignedRanges : List (Nat × Nat) :=
  [(0x01, 0x0F), (0x12, 0x1F), (0x25, 0x27), (0x29, 0x2F), (0x32, 0x37), (0x3A, 0x3F), (0x43, 0x47), (0x4A, 0xFF)]

/-- Whether an opcode lies in one of the unassigned ranges. -/
def isUnassigned (op : Byte) : Bool :=
  unassignedRanges.any fun r => decide (r.1 ≤ op.toNat) && decide (op.toNat ≤ r.2)

/-- The unassigned opcodes of 30_encoding.md R51. -/
def unassignedOpcodes : List Byte := ((List.range 256).map (BitVec.ofNat 8)).filter isUnassigned

/-- The six read commands by opcode, each with the opcodes of the command words that may write what it reads: PAYLOAD
(10_state.md R17), DEC_CENTI and DEC_F32 (R20, R21), STATUS with LEN (R18, R22 to R25), INTERVAL (R26), LAST (R27). -/
def writersOfRead : List (Byte × List Byte) :=
  [(0x28#8, [0x10#8, 0x20#8, 0x21#8, 0x22#8, 0x23#8, 0x24#8]),
   (0x30#8, [0x11#8]),
   (0x31#8, [0x11#8]),
   (0x38#8, [0x10#8, 0x11#8, 0x20#8, 0x21#8, 0x22#8, 0x23#8, 0x24#8, 0x39#8, 0x42#8] ++ unassignedOpcodes),
   (0x48#8, [0x40#8]),
   (0x49#8, [0x41#8, 0x42#8])]

/-- A command responds the same in two states, and changes nothing in either (20_memory.md R39). -/
def SameResponse (i : Instr) (s t : State) : Prop :=
  ∃ r : ResponseWord, exec i s = .next { s with responses := s.responses ++ [r] } ∧
    exec i t = .next { t with responses := t.responses ++ [r] }

/-- What a command did to a STATUS bit, seen in two runs that differ in STATUS: with `before` it left `after`, with
`before'` it left `after'`. Either it kept the bit in both, or it left the same value in both (10_state.md R28). -/
def StatusBitTreatedAlike (before after before' after' : Bool) : Prop :=
  (after = before ∧ after' = before') ∨ after' = after

/-- The effect 41_payload.md R70 gives LDP.n, whole: the four bytes, LEN, the response, and everything else kept. -/
def LdpEffect (i : Instr) (n : Nat) (x : Word) (s : State) : Prop :=
  ∃ t, exec i s = .next t ∧
    (∀ a, a < 4 → readByte a t = .ok (if a < n then x.extractLsb' (24 - 8 * a) 8 else 0x00#8)) ∧
    (∀ a, 4 ≤ a → readByte a t = readByte a s) ∧
    t = { s with
          payload := t.payload
          len := BitVec.ofNat 3 n
          responses := s.responses ++ [responseWord .ok (BitVec.ofNat 32 n)] }

/-- `b` is the binary32 pattern nearest to num / den: no finite pattern is nearer, and where another value is equally
near, `b`'s significand is even (00_scope.md R11). -/
def NearestBinary32 (num : Int) (den : Nat) (b : Word) : Prop :=
  ∃ n, real b = .finite n ∧
    ∀ c m, real c = .finite m →
      |ulpsToRat n - (num : ℚ) / den| ≤ |ulpsToRat m - (num : ℚ) / den| ∧
      (m ≠ n → |ulpsToRat n - (num : ℚ) / den| = |ulpsToRat m - (num : ℚ) / den| → b.getLsbD 0 = false)

/-- real(a) ≤ real(b) for patterns that are no NaN (40_codec.md R62). -/
def realLe : Real32 → Real32 → Prop
  | .nan, _ => False
  | _, .nan => False
  | .negInf, _ => True
  | _, .posInf => True
  | .finite n, .finite m => n ≤ m
  | .finite _, .negInf => False
  | .posInf, .finite _ => False
  | .posInf, .negInf => False

/-- The verdicts of ticks `ns` where INTERVAL is `interval` and LAST is `last` before the first: a tick fires when
u32(now - LAST) > INTERVAL, and LAST is then its operand (42_interval.md R80). -/
def firings (interval last : Word) : List Word → List Bool
  | [] => []
  | now :: rest =>
    if interval.toNat < ((now.toNat : Int) - last.toNat) % 2 ^ 32 then true :: firings interval now rest
    else false :: firings interval last rest

/-- The verdicts of ticks at the true times `times` (in ms, unbounded) after a send at the true time `sent`: a tick
fires when the true time since the last send exceeds the interval (70_reset_and_hazards.md R110). -/
def trueFirings (interval sent : Nat) : List Nat → List Bool
  | [] => []
  | now :: rest =>
    if interval < now - sent then true :: trueFirings interval now rest
    else false :: trueFirings interval sent rest

/-- True times in order, each at most `gap` after the one before, the first at most `gap` after `start`
(70_reset_and_hazards.md R110). -/
def SpacedBy (gap start : Nat) : List Nat → Prop
  | [] => True
  | now :: rest => start ≤ now ∧ now - start ≤ gap ∧ SpacedBy gap now rest

/-- The response word of a tick with the given verdict (42_interval.md R77). -/
def tickResponse (fires : Bool) : ResponseWord :=
  responseWord .ok (if fires then 0x00000001#32 else 0x00000000#32)

/-- The sticky STATUS bit of a condition (60_exceptions.md R88). -/
def State.stickyBit (c : Condition) (s : State) : Bool :=
  match c with
  | .warnSat => s.sat
  | .warnNan => s.nan
  | .errTrunc => s.trunc
  | .errIllegal => s.ill

/-- The CLS mask bit of a condition (43_status.md R86). -/
def maskIndex : Condition → Nat
  | .warnSat => 0
  | .warnNan => 1
  | .errTrunc => 2
  | .errIllegal => 3

/-- Whether a command word is a CLS whose mask bit for the condition is 1 (43_status.md R86). -/
def clearsSticky (c : Condition) (w : CommandWord) : Bool :=
  opField w == 0x39#8 && (operandField w).getLsbD (maskIndex c)

/-- Whether a condition has occurred since the later of reset and the last CLS that clears it, read from the host's
moves and the responses to its commands (43_status.md R87); `b` is the answer before the first move. -/
def occurredSinceClear (c : Condition) (b : Bool) : List HostMove → List ResponseWord → Bool
  | [], _ => b
  | .reset :: ms, rs => occurredSinceClear c false ms rs
  | .command _ :: _, [] => b
  | .command w :: ms, r :: rs =>
    occurredSinceClear c ((b && !clearsSticky c w) || responseCode r == codeBits (codeOf c)) ms rs

/-- How many of the host's moves are commands: each gets one response, a reset none (70_reset_and_hazards.md R113). -/
def commandCount : List HostMove → Nat
  | [] => 0
  | .command _ :: ms => commandCount ms + 1
  | .reset :: ms => commandCount ms

end Sys2Proof.Machine
end

