-- ==== Sys2Proof/Certificates/Slice0/Obligations.lean ====
section
/-! DEFINITION. The statements about the TCIC, each a proposition; each docstring names the rule or the section of
spec/ it formalises. -/

open Sys2Proof Sys2Proof.Machine

/-! ## Encoding and the command port -/

/-- 30_encoding.md, sections 1 and 2: the decoder and the encoder agree, in both directions, for every command with
every operand and for every 40-bit word. -/
def Obligations.DecodeAndEncodeAgree : Prop :=
  (∀ i : Instr, decode (encode i) = .ok i) ∧ (∀ (w : CommandWord) (i : Instr), decode w = .ok i → encode i = w)

/-- 30_encoding.md R46: each of the 18 assigned opcodes selects exactly one command, whatever the operand; every other
opcode selects none. -/
def Obligations.OpcodeAloneSelectsTheCommand : Prop :=
  ∀ (op : Byte),
    (op ∈ assignedOpcodes →
      ∃ f : Word → Instr, ∀ x, decode (commandWord op x) = .ok (f x) ∧ (f x).opcode = op ∧ (f x).operand = x) ∧
    (op ∉ assignedOpcodes → ∀ x, decode (commandWord op x) = .error (.unassignedOpcode op))

/-- 30_encoding.md R44: a command word is `op` in bits 39:32 and `operand` in bits 31:0, and nothing else. -/
def Obligations.CommandWordIsOpThenOperand : Prop :=
  ∀ (op : Byte) (x : Word),
    (∀ k, k < 32 → (commandWord op x).getLsbD k = x.getLsbD k) ∧
    (∀ k, k < 8 → (commandWord op x).getLsbD (32 + k) = op.getLsbD k) ∧
    opField (commandWord op x) = op ∧ operandField (commandWord op x) = x

/-- 30_encoding.md, section 2: command words of every family, written out from the opcode map. -/
def Obligations.WrittenOutWordsDecode : Prop :=
  decode 0x00DEADBEEF#40 = .ok (.nop 0xDEADBEEF#32) ∧
  decode 0x1041C80000#40 = .ok (.encT 0x41C80000#32) ∧
  decode 0x1100000000#40 = .ok (.decT 0#32) ∧
  decode 0x224E2D9999#40 = .ok (.ldp2 0x4E2D9999#32) ∧
  decode 0x2800000000#40 = .ok (.rdp 0#32) ∧
  decode 0x3900000001#40 = .ok (.cls 1#32) ∧
  decode 0x4200000A28#40 = .ok (.ivTick 2600#32) ∧
  decode 0x25FFFFFFFF#40 = .error (.unassignedOpcode 0x25#8)

/-- 20_memory.md, section 5, and 60_exceptions.md, section 2: where the host's next move is a command word that decodes
to a command, the step is the meaning of that command, the move being taken off the host's list and nothing else
changing around it. -/
def Obligations.StepRunsTheDecodedCommand : Prop :=
  ∀ (s : State) (w : CommandWord) (rest : List HostMove) (i : Instr),
    s.moves = .command w :: rest → decode w = .ok i → step s = exec i { s with moves := rest }

/-- The model's choice (log entry 2), resting on 00_scope.md section 4, "It never initiates anything.": with no move of
the host pending, a step changes nothing. -/
def Obligations.NothingHappensWithoutAHostMove : Prop :=
  ∀ s : State, s.moves = [] → step s = .next s

/-- 30_encoding.md R51 and 60_exceptions.md R93: the illegal opcodes are the eight ranges, 238 values, that R47 does not
assign; such a word, whatever its operand, sets STATUS.ILL, changes nothing else, responds `4/000000OO`, and the step
answers a next state. -/
def Obligations.IllegalOpcodeOnlySetsIll : Prop :=
  (∀ op : Byte, isUnassigned op = true ↔ op ∉ assignedOpcodes) ∧
  ((List.range 256).filter fun n => isUnassigned (BitVec.ofNat 8 n)).length = 238 ∧
  (∀ (s : State) (op : Byte) (x : Word) (rest : List HostMove),
    isUnassigned op = true → s.moves = .command (commandWord op x) :: rest →
      step s = .next { s with
        moves := rest
        ill := true
        responses := s.responses ++ [4#3 ++ (0x000000#24 ++ op)] })

/-- 30_encoding.md R49 and the ignored bits of R48: the nine commands give the same outcome and state for every
operand; LDP.1 to LDP.3 and CLS for every two operands that agree on the bits R48 reads; and no operand makes an
assigned opcode illegal. -/
def Obligations.IgnoredOperandBitsChangeNothing : Prop :=
  ∀ (x y : Word) (s : State),
    exec (.nop x) s = exec (.nop y) s ∧ exec (.decT x) s = exec (.decT y) s ∧
    exec (.ldp0 x) s = exec (.ldp0 y) s ∧ exec (.rdp x) s = exec (.rdp y) s ∧
    exec (.rdc x) s = exec (.rdc y) s ∧ exec (.rdf x) s = exec (.rdf y) s ∧
    exec (.rds x) s = exec (.rds y) s ∧ exec (.ivRdI x) s = exec (.ivRdI y) s ∧
    exec (.ivRdL x) s = exec (.ivRdL y) s ∧
    (x.extractLsb' 24 8 = y.extractLsb' 24 8 → exec (.ldp1 x) s = exec (.ldp1 y) s) ∧
    (x.extractLsb' 16 16 = y.extractLsb' 16 16 → exec (.ldp2 x) s = exec (.ldp2 y) s) ∧
    (x.extractLsb' 8 24 = y.extractLsb' 8 24 → exec (.ldp3 x) s = exec (.ldp3 y) s) ∧
    (x.extractLsb' 0 4 = y.extractLsb' 0 4 → exec (.cls x) s = exec (.cls y) s) ∧
    (∀ op ∈ assignedOpcodes, ∃ i, decode (commandWord op x) = .ok i)

/-- 30_encoding.md R45: a response word is `code` in bits 34:32 and `data` in bits 31:0; the five codes are those of
60_exceptions.md R88, and a word with code 5, 6 or 7 is no response. -/
def Obligations.ResponseWordIsCodeThenData : Prop :=
  (∀ (c : OutcomeCode) (d : Word),
    responseCode (responseWord c d) = codeBits c ∧ responseData (responseWord c d) = d ∧
    decodeResponse (responseWord c d) = some (c, d)) ∧
  (∀ r : ResponseWord, decodeResponse r = none ↔ 5 ≤ (responseCode r).toNat) ∧
  codeBits .ok = 0#3 ∧ codeBits .warnSat = 1#3 ∧ codeBits .warnNan = 2#3 ∧ codeBits .errTrunc = 3#3 ∧
  codeBits .errIllegal = 4#3

/-! ## The meaning of each command -/

/-- 43_status.md R82: NOP responds `0/00000000` and changes no state. -/
def Obligations.NopOnlyResponds : Prop :=
  ∀ (x : Word) (s : State),
    decode (commandWord 0x00#8 x) = .ok (.nop x) ∧
    exec (.nop x) s = .next { s with responses := s.responses ++ [responseWord .ok 0x00000000#32] }

/-- 41_payload.md R71: RDP responds with the four payload bytes, byte 0 most significant, and changes no state; after
reset that is 0, after an ENC.T it is `raw : 0x0000`. -/
def Obligations.RdpReturnsAllFourBytes : Prop :=
  (∀ (x : Word) (s : State),
    decode (commandWord 0x28#8 x) = .ok (.rdp x) ∧
    exec (.rdp x) s = .next { s with
      responses := s.responses ++ [responseWord .ok (s.payload.lookup 0 ++ s.payload.lookup 1 ++
        s.payload.lookup 2 ++ s.payload.lookup 3)] }) ∧
  (∀ (x ir : Word), exec (.rdp x) (State.resetWith ir) =
    .next { State.resetWith ir with responses := [responseWord .ok 0x00000000#32] }) ∧
  (∀ (x b : Word) (s t : State), exec (.encT b) s = .next t →
    exec (.rdp x) t = .next { t with
      responses := t.responses ++ [responseWord .ok ((encRaw b).1 ++ 0x0000#16)] })

/-- 43_status.md R83: RDC responds with DEC_CENTI and changes no state; before any decode that is 0; a negative value
is in two's complement. -/
def Obligations.RdcReturnsDecCenti : Prop :=
  (∀ (x : Word) (s : State),
    decode (commandWord 0x30#8 x) = .ok (.rdc x) ∧
    exec (.rdc x) s = .next { s with responses := s.responses ++ [responseWord .ok s.decCenti] }) ∧
  (∀ (x : Word) (s : State), Inv s → s.dvalid = false →
    exec (.rdc x) s = .next { s with responses := s.responses ++ [responseWord .ok 0x00000000#32] }) ∧
  s32 (-1) = 0xFFFFFFFF#32 ∧ s32 (-20000) = 0xFFFFB1E0#32

/-- 43_status.md R84: RDF responds with DEC_F32 and changes no state; before any decode that is 0; in every state of
the machine the value is no NaN, no infinity and not −0. -/
def Obligations.RdfReturnsDecF32 : Prop :=
  (∀ (x : Word) (s : State),
    decode (commandWord 0x31#8 x) = .ok (.rdf x) ∧
    exec (.rdf x) s = .next { s with responses := s.responses ++ [responseWord .ok s.decF32] }) ∧
  (∀ (x : Word) (s : State), Inv s → s.dvalid = false →
    exec (.rdf x) s = .next { s with responses := s.responses ++ [responseWord .ok 0x00000000#32] }) ∧
  (∀ s : State, Inv s → (∃ n, real s.decF32 = .finite n) ∧ s.decF32 ≠ 0x80000000#32)

/-- 43_status.md R85: RDS responds with SAT, NAN, TRUNC, ILL, FIRE, DVALID in bits 0 to 5, LEN in bits 10:8 and every
other bit 0, and changes no state; after reset that is 0, after an ENC.T bits 10:8 are 4. -/
def Obligations.RdsReturnsTheStatusWord : Prop :=
  (∀ (x : Word) (s : State),
    decode (commandWord 0x38#8 x) = .ok (.rds x) ∧
    ∃ d : Word, exec (.rds x) s = .next { s with responses := s.responses ++ [responseWord .ok d] } ∧
      d.getLsbD 0 = s.sat ∧ d.getLsbD 1 = s.nan ∧ d.getLsbD 2 = s.trunc ∧ d.getLsbD 3 = s.ill ∧
      d.getLsbD 4 = s.fire ∧ d.getLsbD 5 = s.dvalid ∧ d.extractLsb' 6 2 = 0#2 ∧ d.extractLsb' 8 3 = s.len ∧
      d.extractLsb' 11 21 = 0#21) ∧
  (∀ (x ir : Word), exec (.rds x) (State.resetWith ir) =
    .next { State.resetWith ir with responses := [responseWord .ok 0x00000000#32] }) ∧
  (∀ (x b : Word) (s t : State), exec (.encT b) s = .next t →
    ∃ d : Word, exec (.rds x) t = .next { t with responses := t.responses ++ [responseWord .ok d] } ∧
      d.extractLsb' 8 3 = 4#3)

/-- 43_status.md R86: CLS clears SAT, NAN, TRUNC and ILL where operand bits 0 to 3 are 1, changes nothing else, and
responds with what RDS would read after the clear; a mask of 0 acts as an RDS. -/
def Obligations.ClsClearsTheMaskedStickyBits : Prop :=
  (∀ (x : Word) (s : State),
    let c := { s with
      sat := s.sat && !x.getLsbD 0
      nan := s.nan && !x.getLsbD 1
      trunc := s.trunc && !x.getLsbD 2
      ill := s.ill && !x.getLsbD 3 }
    decode (commandWord 0x39#8 x) = .ok (.cls x) ∧ exec (.cls x) s = exec (.rds 0#32) c ∧
    exec (.cls x) s = .next { c with responses := s.responses ++ [responseWord .ok c.status] }) ∧
  (∀ (x y : Word) (s : State), x.extractLsb' 0 4 = 0#4 → exec (.cls x) s = exec (.rds y) s)

/-- 42_interval.md R75: IV.SETI sets INTERVAL, responds with its operand and changes nothing else; the new value
applies from the next tick, measured from the current LAST; 0 makes every tick with now ≠ LAST fire, 0xFFFFFFFF none. -/
def Obligations.IvSetISetsTheInterval : Prop :=
  (∀ (x : Word) (s : State),
    decode (commandWord 0x40#8 x) = .ok (.ivSetI x) ∧
    exec (.ivSetI x) s = .next { s with interval := x, responses := s.responses ++ [responseWord .ok x] }) ∧
  (∀ (x now : Word) (s t : State), exec (.ivSetI x) s = .next t →
    ∃ u, exec (.ivTick now) t = .next u ∧ (u.fire = true ↔ x.toNat < (now - s.last).toNat)) ∧
  (∀ (now : Word) (s t : State), exec (.ivSetI 0x00000000#32) s = .next t → now ≠ s.last →
    ∃ u, exec (.ivTick now) t = .next u ∧ u.fire = true) ∧
  (∀ (now : Word) (s t : State), exec (.ivSetI 0xFFFFFFFF#32) s = .next t →
    ∃ u, exec (.ivTick now) t = .next u ∧ u.fire = false)

/-- 42_interval.md R76: IV.SETL sets LAST, responds with its operand and changes nothing else; a mark ahead of the next
`now` makes the next elapsed time wrap, and that tick fires unless INTERVAL is at least that large. -/
def Obligations.IvSetLSetsTheMark : Prop :=
  (∀ (x : Word) (s : State),
    decode (commandWord 0x41#8 x) = .ok (.ivSetL x) ∧
    exec (.ivSetL x) s = .next { s with last := x, responses := s.responses ++ [responseWord .ok x] }) ∧
  (∀ (x now : Word) (s t : State), exec (.ivSetL x) s = .next t → now.toNat < x.toNat →
    ∃ u, exec (.ivTick now) t = .next u ∧
      (u.fire = true ↔ s.interval.toNat < 2 ^ 32 + now.toNat - x.toNat))

/-- 42_interval.md R77: IV.TICK fires exactly when (now − LAST) mod 2^32 exceeds INTERVAL; a fire moves LAST to `now`,
sets FIRE and responds 1; otherwise FIRE is cleared, LAST stays and the response is 0; nothing else changes. -/
def Obligations.IvTickFiresWhenElapsedExceedsInterval : Prop :=
  ∀ (now : Word) (s : State),
    let e : Int := ((now.toNat : Int) - (s.last.toNat : Int)) % 2 ^ 32
    decode (commandWord 0x42#8 now) = .ok (.ivTick now) ∧
    ((s.interval.toNat : Int) < e → exec (.ivTick now) s =
      .next { s with last := now, fire := true, responses := s.responses ++ [responseWord .ok 0x00000001#32] }) ∧
    (e ≤ (s.interval.toNat : Int) → exec (.ivTick now) s =
      .next { s with fire := false, responses := s.responses ++ [responseWord .ok 0x00000000#32] })

/-- 42_interval.md R78: IV.RDI responds with INTERVAL and changes no state; after reset that is INTERVAL_RESET. -/
def Obligations.IvRdIReturnsTheInterval : Prop :=
  (∀ (x : Word) (s : State),
    decode (commandWord 0x48#8 x) = .ok (.ivRdI x) ∧
    exec (.ivRdI x) s = .next { s with responses := s.responses ++ [responseWord .ok s.interval] }) ∧
  (∀ (x ir : Word), exec (.ivRdI x) (State.resetWith ir) =
    .next { State.resetWith ir with responses := [responseWord .ok ir] })

/-- 42_interval.md R79: IV.RDL responds with LAST and changes no state; after reset that is 0. -/
def Obligations.IvRdLReturnsTheMark : Prop :=
  (∀ (x : Word) (s : State),
    decode (commandWord 0x49#8 x) = .ok (.ivRdL x) ∧
    exec (.ivRdL x) s = .next { s with responses := s.responses ++ [responseWord .ok s.last] }) ∧
  (∀ (x ir : Word), exec (.ivRdL x) (State.resetWith ir) =
    .next { State.resetWith ir with responses := [responseWord .ok 0x00000000#32] })

/-- 41_payload.md R70: each LDP.n writes operand bytes 0..n−1 and zero padding, sets LEN to n, responds n and changes
nothing else; for n < 4 a DEC.T that follows is truncated. -/
def Obligations.LdpLoadsBytesAndZeroPads : Prop :=
  (∀ (x : Word) (s : State),
    LdpEffect (.ldp0 x) 0 x s ∧ LdpEffect (.ldp1 x) 1 x s ∧ LdpEffect (.ldp2 x) 2 x s ∧
    LdpEffect (.ldp3 x) 3 x s ∧ LdpEffect (.ldp4 x) 4 x s) ∧
  (∀ x : Word,
    decode (commandWord 0x20#8 x) = .ok (.ldp0 x) ∧ decode (commandWord 0x21#8 x) = .ok (.ldp1 x) ∧
    decode (commandWord 0x22#8 x) = .ok (.ldp2 x) ∧ decode (commandWord 0x23#8 x) = .ok (.ldp3 x) ∧
    decode (commandWord 0x24#8 x) = .ok (.ldp4 x)) ∧
  (∀ (i : Instr) (x y : Word) (s t : State),
    i ∈ [.ldp0 x, .ldp1 x, .ldp2 x, .ldp3 x] → exec i s = .next t →
      ∃ u, exec (.decT y) t = .next u ∧ u.trunc = true ∧
        ∃ d, u.responses = t.responses ++ [responseWord .errTrunc d])

/-- 40_codec.md R59: ENC.T writes PAYLOAD with `raw : 0x0000` and LEN with 4 whatever the outcome, sets SAT or NAN by
the outcome of `encRaw`, responds with that outcome and raw, and changes nothing else; with the rule's corner cases. -/
def Obligations.EncTEncodesAndReports : Prop :=
  (∀ (b : Word) (s : State),
    decode (commandWord 0x10#8 b) = .ok (.encT b) ∧
    ∃ t, exec (.encT b) s = .next t ∧
      readByte 0 t = .ok ((encRaw b).1.extractLsb' 8 8) ∧ readByte 1 t = .ok ((encRaw b).1.extractLsb' 0 8) ∧
      readByte 2 t = .ok 0x00#8 ∧ readByte 3 t = .ok 0x00#8 ∧ (∀ a, 4 ≤ a → readByte a t = readByte a s) ∧
      ((encRaw b).2 = .ok → t = { s with
        payload := t.payload
        len := 4#3
        responses := s.responses ++ [responseWord .ok (0x0000#16 ++ (encRaw b).1)] }) ∧
      ((encRaw b).2 = .sat → t = { s with
        payload := t.payload
        len := 4#3
        sat := true
        responses := s.responses ++ [responseWord .warnSat (0x0000#16 ++ (encRaw b).1)] }) ∧
      ((encRaw b).2 = .nan → t = { s with
        payload := t.payload
        len := 4#3
        nan := true
        responses := s.responses ++ [responseWord .warnNan (0x0000#16 ++ (encRaw b).1)] })) ∧
  encRaw 0x80000000#32 = (20000#16, .ok) ∧ encRaw 0x00000000#32 = (20000#16, .ok) ∧
  encRaw 0x3E000000#32 = (20013#16, .ok) ∧ encRaw 0xC347E000#32 = (13#16, .ok) ∧
  (∀ b : Word, 0xC3480000 ≤ b.toNat → b.toNat ≤ 0xC3480147 → encRaw b = (0x0000#16, .ok)) ∧
  (∀ b : Word, 0xC3480148 ≤ b.toNat → b.toNat ≤ 0xFF800000 → encRaw b = (0x0000#16, .sat)) ∧
  (∀ b : Word, 0x43E3ACCD ≤ b.toNat → b.toNat ≤ 0x43E3AD70 → encRaw b = (0xFFFF#16, .ok)) ∧
  (∀ b : Word, 0x43E3AD71 ≤ b.toNat → b.toNat ≤ 0x7F800000 → encRaw b = (0xFFFF#16, .sat)) ∧
  (∀ b : Word, (b.extractLsb' 0 31).toNat ≤ 0x3BA3D70A → encRaw b = (20000#16, .ok)) ∧
  (∀ b : Word, real b = .nan → encRaw b = (0x0000#16, .nan))

/-- 40_codec.md R61: DEC.T with LEN = 4 decodes `PAYLOAD[0] : PAYLOAD[1]` into DEC_CENTI and DEC_F32, sets DVALID and
responds DEC_CENTI; with LEN ≠ 4 it sets TRUNC, responds `4 << 8 | LEN` and changes nothing else; with the rule's
corner cases. -/
def Obligations.DecTDecodesOrReportsTruncation : Prop :=
  (∀ (x : Word) (s : State),
    decode (commandWord 0x11#8 x) = .ok (.decT x) ∧
    (s.len = 4#3 → exec (.decT x) s = .next { s with
      decCenti := BitVec.ofInt 32 ((s.tempRaw.toNat : Int) - 20000)
      decF32 := decF32 s.tempRaw
      dvalid := true
      responses := s.responses ++ [responseWord .ok (BitVec.ofInt 32 ((s.tempRaw.toNat : Int) - 20000))] }) ∧
    (s.len ≠ 4#3 → exec (.decT x) s = .next { s with
      trunc := true
      responses := s.responses ++ [responseWord .errTrunc (BitVec.ofNat 32 (4 * 256 + s.len.toNat))] })) ∧
  (∀ (x y : Word) (s t : State), exec (.decT x) s = .next t →
    ∃ (u : State) (r : ResponseWord), exec (.decT y) t = .next u ∧
      t.responses = s.responses ++ [r] ∧ u = { t with responses := t.responses ++ [r] }) ∧
  decF32 0x0000#16 = 0xC3480000#32 ∧ decF32 0xFFFF#16 = 0x43E3ACCD#32 ∧ decF32 0x4E20#16 = 0x00000000#32 ∧
  decF32 0x4E1F#16 = 0xBC23D70A#32

/-- 42_interval.md R74: elapsed is the difference modulo 2^32, and equals the true time below 2^32 whether or not the
counter wrapped. -/
def Obligations.ElapsedIsTheModularDifference : Prop :=
  (∀ now last : Word, ((elapsed now last).toNat : Int) = ((now.toNat : Int) - last.toNat) % 2 ^ 32) ∧
  (∀ (last : Word) (t : Nat), t < 2 ^ 32 → (elapsed (BitVec.ofNat 32 (last.toNat + t)) last).toNat = t) ∧
  elapsed 0x00000100#32 0xFFFFFF00#32 = 0x00000200#32

/-! ## Reset -/

/-- 10_state.md R30: the whole state after reset, for every value of the parameter INTERVAL_RESET. -/
def Obligations.ResetLeavesTheListedValues : Prop :=
  ∀ ir : Word,
    (∀ a, a < 4 → readByte a (State.resetWith ir) = .ok 0x00#8) ∧
    (State.resetWith ir).len = 0#3 ∧ (State.resetWith ir).decCenti = 0x00000000#32 ∧
    (State.resetWith ir).decF32 = 0x00000000#32 ∧ (State.resetWith ir).sat = false ∧
    (State.resetWith ir).nan = false ∧ (State.resetWith ir).trunc = false ∧ (State.resetWith ir).ill = false ∧
    (State.resetWith ir).fire = false ∧ (State.resetWith ir).dvalid = false ∧
    (State.resetWith ir).interval = ir ∧ (State.resetWith ir).last = 0x00000000#32

/-- 70_reset_and_hazards.md, section 1: a reset, as the host's next move, takes every element of the state to its reset
value and gives no response. That it leaves the host's remaining moves and the responses the host has received is the
model's choice (log entry 6, DEDUCED). -/
def Obligations.ResetMoveRestoresTheResetState : Prop :=
  ∀ (s : State) (rest : List HostMove), s.moves = .reset :: rest →
    step s = .next { State.resetWith s.intervalReset with moves := rest, responses := s.responses }

/-- 70_reset_and_hazards.md, section 1, "No state survives reset": after a reset, two machines with the same
INTERVAL_RESET answer the host's further moves alike, whatever they held before. That the responses received before the
reset are kept is the model's choice (log entry 6, DEDUCED). -/
def Obligations.NothingSurvivesReset : Prop :=
  ∀ (s t : State) (ms : List HostMove), s.intervalReset = t.intervalReset →
    ∃ (u : State) (rs : List ResponseWord),
      runMoves (.reset :: ms) s = .next { u with responses := s.responses ++ rs } ∧
      runMoves (.reset :: ms) t = .next { u with responses := t.responses ++ rs }

/-- The model's choice of INTERVAL_RESET for `State.reset` (log entry 4) rests on 10_state.md section 5, "The
recommended default, 0xFFFFFFFF, makes IV.TICK never fire until the host programs INTERVAL": no run from `State.reset`
without an IV.SETI sets FIRE. -/
def Obligations.RecommendedResetNeverFires : Prop :=
  ∀ (ms : List HostMove), (∀ w, .command w ∈ ms → opField w ≠ 0x40#8) →
    ∃ t, runMoves ms State.reset = .next t ∧ t.fire = false ∧ t.interval = 0xFFFFFFFF#32

/-! ## Whole-machine rules -/

/-- 00_scope.md R7: the step is total; each command word has one outcome and gives one response word; an unassigned
opcode gives ERR_ILLEGAL. -/
def Obligations.EveryCommandGetsOneResponse : Prop :=
  ∀ (s : State) (w : CommandWord) (rest : List HostMove), s.moves = .command w :: rest →
    ∃ (t : State) (c : OutcomeCode) (d : Word), step s = .next t ∧ t.moves = rest ∧
      t.responses = s.responses ++ [responseWord c d] ∧ (c = .errIllegal ↔ opField w ∉ assignedOpcodes)

/-- 60_exceptions.md, section 1: which commands give which outcome; codes 5, 6 and 7 are never produced. -/
def Obligations.OutcomeCodesByCommand : Prop :=
  ∀ (i : Instr) (s t : State), exec i s = .next t →
    ∃ (c : OutcomeCode) (d : Word), t.responses = s.responses ++ [responseWord c d] ∧
      (codeBits c).toNat ≤ 4 ∧ c ≠ .errIllegal ∧
      (c = .warnSat ∨ c = .warnNan → ∃ b, i = .encT b) ∧ (c = .errTrunc → ∃ x, i = .decT x)

/-- 10_state.md, sections 2 to 4: each register is written only by the commands its own rule lists; and a write of LEN
is 4 by ENC.T and n by LDP.n. -/
def Obligations.EachRegisterHasItsWriters : Prop :=
  ∀ (i : Instr) (s t : State), exec i s = .next t →
    (t.payload ≠ s.payload → i.opcode ∈ [0x10#8, 0x20#8, 0x21#8, 0x22#8, 0x23#8, 0x24#8]) ∧
    (i.opcode = 0x10#8 → t.len = 4#3) ∧
    (i.opcode ∈ [0x20#8, 0x21#8, 0x22#8, 0x23#8, 0x24#8] → t.len = i.opcode.extractLsb' 0 3) ∧
    (i.opcode ∉ [0x10#8, 0x20#8, 0x21#8, 0x22#8, 0x23#8, 0x24#8] → t.len = s.len) ∧
    (t.decCenti ≠ s.decCenti → i.opcode = 0x11#8) ∧ (t.decF32 ≠ s.decF32 → i.opcode = 0x11#8) ∧
    (s.sat = false → t.sat = true → i.opcode = 0x10#8) ∧ (s.nan = false → t.nan = true → i.opcode = 0x10#8) ∧
    (s.trunc = false → t.trunc = true → i.opcode = 0x11#8) ∧ (s.ill = false → t.ill = false) ∧
    (s.sat = true → t.sat = false → i.opcode = 0x39#8) ∧ (s.nan = true → t.nan = false → i.opcode = 0x39#8) ∧
    (s.trunc = true → t.trunc = false → i.opcode = 0x39#8) ∧ (s.ill = true → t.ill = false → i.opcode = 0x39#8) ∧
    (t.fire ≠ s.fire → i.opcode = 0x42#8) ∧
    (t.dvalid ≠ s.dvalid → i.opcode = 0x11#8 ∧ t.dvalid = true ∧ s.len = 4#3) ∧
    (t.interval ≠ s.interval → i.opcode = 0x40#8) ∧
    (t.last ≠ s.last → i.opcode = 0x41#8 ∨ (i.opcode = 0x42#8 ∧ t.fire = true)) ∧
    t.intervalReset = s.intervalReset ∧ t.moves = s.moves

/-- 20_memory.md R39: the six reads change no state and repeat the same data, at once, after any command words none of
which may write what the command reads, and wherever the registers it reads hold the same; DEC.T leaves the payload as
it was, and sets DVALID or TRUNC; IV.TICK may move LAST. -/
def Obligations.ReadsHaveNoSideEffects : Prop :=
  (∀ (i : Instr) (x : Word) (s : State),
    i ∈ [.rdp x, .rdc x, .rdf x, .rds x, .ivRdI x, .ivRdL x] →
      ∃ r : ResponseWord, exec i s = .next { s with responses := s.responses ++ [r] } ∧
        exec i { s with responses := s.responses ++ [r] } =
          .next { s with responses := s.responses ++ [r] ++ [r] }) ∧
  (∀ (i : Instr) (ops : List Byte) (ws : List CommandWord) (s : State),
    (i.opcode, ops) ∈ writersOfRead → (∀ w ∈ ws, opField w ∉ ops) →
      ∃ (r : ResponseWord) (t : State), exec i s = .next { s with responses := s.responses ++ [r] } ∧
        runMoves (ws.map .command) { s with responses := s.responses ++ [r] } = .next t ∧
        exec i t = .next { t with responses := t.responses ++ [r] }) ∧
  (∀ (x : Word) (s t : State),
    ((∀ a, a < 4 → readByte a s = readByte a t) → SameResponse (.rdp x) s t) ∧
    (s.decCenti = t.decCenti → SameResponse (.rdc x) s t) ∧
    (s.decF32 = t.decF32 → SameResponse (.rdf x) s t) ∧
    (s.sat = t.sat → s.nan = t.nan → s.trunc = t.trunc → s.ill = t.ill → s.fire = t.fire → s.dvalid = t.dvalid →
      s.len = t.len → SameResponse (.rds x) s t) ∧
    (s.interval = t.interval → SameResponse (.ivRdI x) s t) ∧
    (s.last = t.last → SameResponse (.ivRdL x) s t)) ∧
  (∀ (x : Word) (s : State), ∃ t, exec (.decT x) s = .next t ∧ t.payload = s.payload ∧
    (t.dvalid = true ∨ t.trunc = true)) ∧
  (∃ (now : Word) (s t : State), exec (.ivTick now) s = .next t ∧ t.last ≠ s.last)

/-- 40_codec.md R69: no codec command reads or writes INTERVAL, LAST or FIRE, and no comparator command reads or writes
PAYLOAD, LEN, DEC_CENTI, DEC_F32 or the codec's status bits: overwriting the one unit's registers before a command of
the other unit is overwriting them after it. -/
def Obligations.TheTwoUnitsAreIndependent : Prop :=
  (∀ (i : Instr) (s t : State) (iv la : Word) (fi : Bool),
    i.opcode ∈ [0x10#8, 0x11#8, 0x20#8, 0x21#8, 0x22#8, 0x23#8, 0x24#8, 0x28#8, 0x30#8, 0x31#8] →
    exec i s = .next t →
      exec i { s with interval := iv, last := la, fire := fi } =
        .next { t with interval := iv, last := la, fire := fi }) ∧
  (∀ (i : Instr) (s t : State) (p : Memory) (n : BitVec 3) (dc df : Word) (sa na tr dv : Bool),
    i.opcode ∈ [0x40#8, 0x41#8, 0x42#8, 0x48#8, 0x49#8] →
    exec i s = .next t →
      exec i { s with payload := p, len := n, decCenti := dc, decF32 := df, sat := sa, nan := na, trunc := tr, dvalid := dv } =
        .next { t with payload := p, len := n, decCenti := dc, decF32 := df, sat := sa, nan := na, trunc := tr, dvalid := dv })

/-- 10_state.md, section 5: no command's behaviour depends on a STATUS bit. From two states that differ in the STATUS
bits alone a command does the same: each register outside STATUS ends the same; each STATUS bit is kept in both or ends
the same in both; the response is the same, but for RDS and CLS, which read STATUS out: theirs is the STATUS word after
the command. -/
def Obligations.NoBehaviourDependsOnStatusBits : Prop :=
  ∀ (i : Instr) (s t : State) (sa na tr il fi dv : Bool),
    exec i s = .next t →
      ∃ (sa' na' tr' il' fi' dv' : Bool) (rs : List ResponseWord),
        exec i { s with sat := sa, nan := na, trunc := tr, ill := il, fire := fi, dvalid := dv } =
          .next { t with sat := sa', nan := na', trunc := tr', ill := il', fire := fi', dvalid := dv',
                         responses := rs } ∧
        StatusBitTreatedAlike s.sat t.sat sa sa' ∧ StatusBitTreatedAlike s.nan t.nan na na' ∧
        StatusBitTreatedAlike s.trunc t.trunc tr tr' ∧ StatusBitTreatedAlike s.ill t.ill il il' ∧
        StatusBitTreatedAlike s.fire t.fire fi fi' ∧ StatusBitTreatedAlike s.dvalid t.dvalid dv dv' ∧
        (i.opcode ≠ 0x38#8 → i.opcode ≠ 0x39#8 → rs = t.responses) ∧
        (i.opcode = 0x38#8 ∨ i.opcode = 0x39#8 →
          rs = s.responses ++ [responseWord .ok (State.status { t with
            sat := sa', nan := na', trunc := tr', ill := il', fire := fi', dvalid := dv' })])

/-- 00_scope.md, section 5, and 20_memory.md, section 1: what MemWrite(addr, n, v) stores MemRead(addr, n) reads, every
other byte of the four stays, and nothing outside the payload changes. The second clause is the model's choice (log
entry 5, DEDUCED): an access that leaves the four addresses, which the spec says never occurs, stops with the fault
named for it. -/
def Obligations.PayloadReadsBackWhatWasWritten : Prop :=
  (∀ (addr n : Nat) (v : BitVec (8 * n)) (s : State), addr + n ≤ 4 →
    ∃ t, memWrite addr n v s = .ok t ∧ memRead addr n t = .ok v ∧ t = { s with payload := t.payload } ∧
      ∀ a, (a < addr ∨ addr + n ≤ a) → readByte a t = readByte a s) ∧
  (∀ (addr n : Nat) (v : BitVec (8 * n)) (s : State), 4 < addr + n →
    memWrite addr n v s = .error (.payloadAddress addr n) ∧ memRead addr n s = .error (.payloadAddress addr n))

/-- 10_state.md, section 5: the invariant holds right after reset, whatever INTERVAL_RESET is. -/
def Obligations.ResetMeetsTheInvariant : Prop :=
  ∀ ir : Word, Inv (State.resetWith ir)

/-- 10_state.md, sections 2 to 5: every step keeps the invariant, from every state that has it: the payload memory stays
canonical, LEN stays legal with zero bytes from LEN on, the decode registers stay the decode of one raw value (or at
reset), and no response has a code above 4. -/
def Obligations.StepKeepsTheInvariant : Prop :=
  ∀ s t : State, Inv s → step s = .next t → Inv t

/-- 00_scope.md section 4, "The TCIC has no stuck state, no hang and no refusal": no run of host moves, from any state,
ends in a fault or a refusal; it makes all its moves and gives one response per command (70_reset_and_hazards.md
section 5), with a code of at most 4 (60_exceptions.md section 1). -/
def Obligations.EveryRunCompletesWithOneResponseEach : Prop :=
  ∀ (ms : List HostMove) (s : State),
    ∃ (t : State) (rs : List ResponseWord), runMoves ms s = .next t ∧ t.moves = [] ∧
      t.responses = s.responses ++ rs ∧ rs.length = commandCount ms ∧
      (∀ r ∈ rs, (responseCode r).toNat ≤ 4)

/-- 20_memory.md section 5, "The state each command reads is the state the previous command left": a run of moves is a
run of its first part, then of the rest from the state that left. -/
def Obligations.RunsComposeInIssueOrder : Prop :=
  ∀ (ms ns : List HostMove) (s : State),
    ∃ t, runMoves ms s = .next t ∧ runMoves (ms ++ ns) s = runMoves ns t

/-- 43_status.md, the paragraph on what a sticky bit read by RDS means, derived there: in every run from reset a sticky
bit is 1 exactly when its condition has occurred since the later of reset and the last CLS that clears it. -/
def Obligations.StickyBitsRecordConditions : Prop :=
  ∀ (ms : List HostMove) (ir : Word) (c : Condition),
    ∃ t, runMoves ms (State.resetWith ir) = .next t ∧
      t.stickyBit c = occurredSinceClear c false ms t.responses

/-! ## The codec's arithmetic -/

/-- 00_scope.md R10: `real` on zero and subnormals, on normal numbers, on the infinities and on NaNs. -/
def Obligations.RealReadsBinary32Patterns : Prop :=
  ∀ b : Word,
    let s := (b.extractLsb' 31 1).toNat
    let e := (b.extractLsb' 23 8).toNat
    let m := (b.extractLsb' 0 23).toNat
    (e = 0 → ∃ n, real b = .finite n ∧ ulpsToRat n = (-1) ^ s * m * (2 : ℚ) ^ (-149 : ℤ)) ∧
    (0 < e → e < 255 → ∃ n, real b = .finite n ∧ ulpsToRat n = (-1) ^ s * (2 ^ 23 + m) * (2 : ℚ) ^ ((e : ℤ) - 150)) ∧
    (e = 255 → m = 0 → s = 0 → real b = .posInf) ∧ (e = 255 → m = 0 → s = 1 → real b = .negInf) ∧
    (e = 255 → m ≠ 0 → real b = .nan)

/-- 00_scope.md, section 5, the first of the rounding functions: `roundHalfAway` gives an integer that no integer is
nearer than, and where another is equally near, the one farther from zero. -/
def Obligations.RoundHalfAwayIsNearestAwayFromZero : Prop :=
  ∀ (num : Int) (den : Nat), 0 < den →
    ∀ k : Int, |(roundHalfAway num den : ℚ) - (num : ℚ) / den| ≤ |(k : ℚ) - (num : ℚ) / den| ∧
      (|(roundHalfAway num den : ℚ) - (num : ℚ) / den| = |(k : ℚ) - (num : ℚ) / den| →
        |k| ≤ |roundHalfAway num den|)

/-- 00_scope.md, section 5, the second of the rounding functions: on the values it is applied to, −200 to 455.35,
`rne32` gives the nearest binary32 pattern, ties to the even significand; 0 gives +0. -/
def Obligations.RneIsNearestTiesToEven : Prop :=
  (∀ (num : Int) (den : Nat), 0 < den → -20000 * (den : Int) ≤ 100 * num → 100 * num ≤ 45535 * (den : Int) →
    NearestBinary32 num den (rne32 num den)) ∧
  (∀ den : Nat, rne32 0 den = 0x00000000#32)

/-- 40_codec.md R58: `encRaw` is the rule's formula over the exact rationals: x = (v + 200) * 100, rounded half away
from zero, then clamped, with the NaN and infinity cases first. -/
def Obligations.EncRawIsTheExactFormula : Prop :=
  (∀ b : Word, encRaw b = encRawRat b) ∧
  (∀ r : Int, clampRaw r =
    if r < 0 then (0x0000#16, .sat) else if 65535 < r then (0xFFFF#16, .sat) else (BitVec.ofInt 16 r, .ok))

/-- 40_codec.md, section 5, derived there: `encRaw` is monotone on patterns that are no NaN. -/
def Obligations.EncodingIsMonotone : Prop :=
  ∀ a b : Word, realLe (real a) (real b) → (encRaw a).1.toNat ≤ (encRaw b).1.toNat

/-- 40_codec.md, section 5, derived there: `encRaw` saturates exactly at −200.005 and below, at 455.355 and above, and
on the infinities, to 0 at the low end and 65535 at the high end. -/
def Obligations.SaturationHasTheseBoundaries : Prop :=
  ∀ b : Word,
    ((encRaw b).2 = .sat ↔
      real b = .posInf ∨ real b = .negInf ∨
        ∃ n, real b = .finite n ∧ (ulpsToRat n ≤ -200005 / 1000 ∨ 455355 / 1000 ≤ ulpsToRat n)) ∧
    (real b = .negInf ∨ (∃ n, real b = .finite n ∧ ulpsToRat n ≤ -200005 / 1000) → encRaw b = (0x0000#16, .sat)) ∧
    (real b = .posInf ∨ (∃ n, real b = .finite n ∧ 455355 / 1000 ≤ ulpsToRat n) → encRaw b = (0xFFFF#16, .sat))

/-- 40_codec.md R60: for every raw value decCenti is raw − 20000, in −20000..45535, and decF32 is the nearest binary32
pattern to raw / 100 − 200, ties to even: +0 for raw 20000 and a finite normal number otherwise. -/
def Obligations.DecodedValueIsNearestAndNormal : Prop :=
  ∀ raw : Raw,
    decCenti raw = (raw.toNat : Int) - 20000 ∧ -20000 ≤ decCenti raw ∧ decCenti raw ≤ 45535 ∧
    NearestBinary32 ((raw.toNat : Int) - 20000) 100 (decF32 raw) ∧
    (raw = 20000#16 → decF32 raw = 0x00000000#32) ∧
    (raw ≠ 20000#16 → 0 < ((decF32 raw).extractLsb' 23 8).toNat ∧ ((decF32 raw).extractLsb' 23 8).toNat < 255)

/-- 40_codec.md, section 5, derived there: the binary32 nearest to k / 100 encodes to k + 20000 for every k in range. -/
def Obligations.EncoderIsExactOnCenti : Prop :=
  ∀ k : Int, -20000 ≤ k → k ≤ 45535 → encRaw (rne32 k 100) = (BitVec.ofInt 16 (k + 20000), .ok)

/-- 40_codec.md, section 5, derived there: encoding the binary32 of a temperature with two decimals, then decoding,
gives back that binary32 and that many hundredths, from every state and with two OK responses. -/
def Obligations.DecodeAfterEncodeIsExact : Prop :=
  ∀ (k : Int) (x : Word) (s : State), -20000 ≤ k → k ≤ 45535 →
    ∃ t, runCommands [.encT (rne32 k 100), .decT x] s = .next t ∧ t.decF32 = rne32 k 100 ∧
      t.decCenti = BitVec.ofInt 32 k ∧ t.dvalid = true ∧
      t.responses = s.responses ++
        [responseWord .ok (BitVec.ofInt 32 (k + 20000)), responseWord .ok (BitVec.ofInt 32 k)]

/-- 40_codec.md, section 5, derived there: a payload decoded, then re-encoded from DEC_F32, keeps its bytes 0 and 1,
with OK. -/
def Obligations.EncodeAfterDecodeIsExact : Prop :=
  ∀ (x : Word) (s t : State), s.len = 4#3 → exec (.decT x) s = .next t →
    ∃ u, exec (.encT t.decF32) t = .next u ∧ u.tempRaw = s.tempRaw ∧
      u.responses = t.responses ++ [responseWord .ok (0x0000#16 ++ s.tempRaw)]

/-- 40_codec.md, section 5, the paragraph on double precision: on every finite binary32 input `encRaw` is the source's
formula evaluated in double precision, then clamped. That double precision is IEEE-754 binary64 with every operation
rounded to nearest even is the model's reading (log entry 10, PRESUMED). -/
def Obligations.EncoderAgreesWithDoublePrecision : Prop :=
  ∀ (b : Word) (n : Int), real b = .finite n → encRaw b = encFiniteDouble n

/-- 40_codec.md, section 5, the paragraph on double precision: for every raw value `decF32` is the source's formula
evaluated in double precision, then narrowed to binary32. That double precision is IEEE-754 binary64 with every
operation rounded to nearest even is the model's reading (log entry 10, PRESUMED). -/
def Obligations.DecoderAgreesWithDoublePrecision : Prop :=
  ∀ raw : Raw, decF32 raw = decF32Double raw

/-- 41_payload.md, derived there: LDP.n, then RDP, returns the operand with its low 4 − n bytes zeroed. -/
def Obligations.LoadThenReadMasksTheOperand : Prop :=
  ∀ (x y : Word) (s : State) (i : Instr) (n : Nat),
    (i, n) ∈ [(Instr.ldp0 x, 0), (Instr.ldp1 x, 1), (Instr.ldp2 x, 2), (Instr.ldp3 x, 3), (Instr.ldp4 x, 4)] →
      ∃ t, runCommands [i, .rdp y] s = .next t ∧
        t.responses = s.responses ++ [responseWord .ok (BitVec.ofNat 32 n),
          responseWord .ok (x &&& BitVec.ofNat 32 (2 ^ 32 - 2 ^ (32 - 8 * n)))]

/-- 41_payload.md, derived there: the receive path. L received bytes loaded by LDP.L, then DEC.T: for L = 4 the decode
of bytes 0 and 1, for L < 4 ERR_TRUNC with `0x00000400 | L` and the decode registers as they were. -/
def Obligations.ReceivePathDecodesOrTruncates : Prop :=
  ∀ (x y : Word) (s : State),
    (∃ t, runCommands [.ldp4 x, .decT y] s = .next t ∧
      t.decCenti = s32 (decCenti (x.extractLsb' 16 16)) ∧ t.decF32 = decF32 (x.extractLsb' 16 16) ∧
      t.responses = s.responses ++ [responseWord .ok 4#32, responseWord .ok t.decCenti]) ∧
    (∀ (i : Instr) (n : Nat),
      (i, n) ∈ [(Instr.ldp0 x, 0), (Instr.ldp1 x, 1), (Instr.ldp2 x, 2), (Instr.ldp3 x, 3)] →
        ∃ t, runCommands [i, .decT y] s = .next t ∧ t.decCenti = s.decCenti ∧ t.decF32 = s.decF32 ∧
          t.dvalid = s.dvalid ∧ t.trunc = true ∧
          t.responses = s.responses ++
            [responseWord .ok (BitVec.ofNat 32 n), responseWord .errTrunc (0x00000400#32 ||| BitVec.ofNat 32 n)])

/-! ## The comparator over time -/

/-- 42_interval.md, section 3, derived there: in a sequence of ticks each fires exactly when the elapsed time since the
last one that fired (or since LAST) exceeds INTERVAL. -/
def Obligations.TicksFireAtFirstCrossings : Prop :=
  ∀ (ns : List Word) (s : State),
    ∃ t, runCommands (ns.map Instr.ivTick) s = .next t ∧ t.interval = s.interval ∧
      t.responses = s.responses ++ (firings s.interval s.last ns).map tickResponse

/-- 42_interval.md, section 3, derived there: a tick t ms of true time after LAST, t < 2^32, fires exactly when
t > INTERVAL, whether or not the counter wrapped. -/
def Obligations.TickIsCorrectAcrossWraparound : Prop :=
  ∀ (s : State) (elapsedMs : Nat), elapsedMs < 2 ^ 32 →
    ∃ t, exec (.ivTick (BitVec.ofNat 32 (s.last.toNat + elapsedMs))) s = .next t ∧
      (t.fire = true ↔ s.interval.toNat < elapsedMs)

/-- 70_reset_and_hazards.md, section 3, derived there: where no two ticks (nor LAST and the first) are more than
2^32 − 1 − INTERVAL ms apart, the verdicts are those of the true elapsed times, over any number of wraps. -/
def Obligations.SpacedTicksFireOnTrueTime : Prop :=
  ∀ (times : List Nat) (sent : Nat) (s : State), s.last = BitVec.ofNat 32 sent →
    SpacedBy (2 ^ 32 - 1 - s.interval.toNat) sent times →
      ∃ t, runCommands (times.map fun τ => Instr.ivTick (BitVec.ofNat 32 τ)) s = .next t ∧
        t.responses = s.responses ++ (trueFirings s.interval.toNat sent times).map tickResponse

/-! ## The assembly language -/

/-- 30_encoding.md, section 5: what the four pseudo-instructions expand to. That an LDB of more than four bytes is
refused, by the name operandCount, is the model's choice (log entry 9, DESIGN CHOICE). -/
def Obligations.PseudoInstructionsExpand : Prop :=
  (∀ (num : Int) (den : Nat), expand (.encTD num den) = .ok [.encT (rne32 num den)]) ∧
  (∀ b0 b1 b2 b3 : Byte,
    expand (.ldb []) = .ok [.ldp0 0#32] ∧
    expand (.ldb [b0]) = .ok [.ldp1 (b0 ++ 0#24)] ∧
    expand (.ldb [b0, b1]) = .ok [.ldp2 (b0 ++ b1 ++ 0#16)] ∧
    expand (.ldb [b0, b1, b2]) = .ok [.ldp3 (b0 ++ b1 ++ b2 ++ 0#8)] ∧
    expand (.ldb [b0, b1, b2, b3]) = .ok [.ldp4 (b0 ++ b1 ++ b2 ++ b3)]) ∧
  (∀ bytes : List Byte, 4 < bytes.length → expand (.ldb bytes) = .error .operandCount) ∧
  expand .clsAll = .ok [.cls 0x0000000F#32] ∧
  (∀ iv la : Word, expand (.ivInit iv la) = .ok [.ivSetI iv, .ivSetL la])

/-- 30_encoding.md, section 5: the assembler reads what the disassembler prints. For every word that is illegal or in
the assembler's form it gives back that word; an ignored operand comes back as 0. That the assembler accepts the `.cmd`
line the disassembler prints for an illegal word is the model's choice (log entry 9, DESIGN CHOICE). -/
def Obligations.AssemblerReadsTheDisassembly : Prop :=
  ∀ w : CommandWord,
    (∀ i, decode w = .ok i → assembleLine (disassemble w) =
      .ok [if i.ignoresOperand then commandWord i.opcode 0#32 else w]) ∧
    (∀ i, decode w = .ok i → i.wellFormed = true → assembleLine (disassemble w) = .ok [w]) ∧
    (∀ e, decode w = .error e → assembleLine (disassemble w) = .ok [w])
end

