-- ==== Sys2Proof/Laws/Encoding.lean ====
section
/-! SUPPORT. The fields of a command word read back what was put in them, and the decoder on a word put together from
its two fields. -/

namespace Sys2Proof

/-- The high part of a concatenation. -/
theorem extractLsb'_append_high {n m : Nat} (x : BitVec n) (y : BitVec m) : (x ++ y).extractLsb' m n = x := by
  ext i hi
  simp [BitVec.getLsbD_append, BitVec.getLsbD_eq_getElem hi]

/-- The low part of a concatenation. -/
theorem extractLsb'_append_low {n m : Nat} (x : BitVec n) (y : BitVec m) : (x ++ y).extractLsb' 0 m = y := by
  ext i hi
  simp [BitVec.getLsbD_append, hi]

@[simp] theorem opField_commandWord (op : Byte) (x : Word) : opField (commandWord op x) = op :=
  extractLsb'_append_high op x

@[simp] theorem operandField_commandWord (op : Byte) (x : Word) : operandField (commandWord op x) = x :=
  extractLsb'_append_low op x

/-- A command word is its two fields put together (30_encoding.md R44). -/
@[simp] theorem commandWord_fields (w : CommandWord) : commandWord (opField w) (operandField w) = w := by
  unfold opField operandField commandWord
  ext i hi
  simp only [BitVec.getElem_append, BitVec.getElem_extractLsb']
  split
  · simp [BitVec.getLsbD_eq_getElem hi]
  · rw [show 32 + (i - 32) = i by omega, BitVec.getLsbD_eq_getElem hi]

/-- Decoding a word put together from its fields looks at nothing else. -/
theorem decode_commandWord (op : Byte) (x : Word) : decode (commandWord op x) = decodeFields op x := by
  simp [decode]

end Sys2Proof
end

