-- ==== Sys2Proof/Laws/State.lean ====
section
/-! SUPPORT. One lemma per field of State per named update of it, and per field of the reset state, so that no proof
unfolds an update. -/

namespace Sys2Proof.Machine

section setLen
variable (n : BitVec 3) (s : State)

@[simp] theorem State.setLen_payload : (State.setLen n s).payload = s.payload := rfl
@[simp] theorem State.setLen_len : (State.setLen n s).len = n := rfl
@[simp] theorem State.setLen_decCenti : (State.setLen n s).decCenti = s.decCenti := rfl
@[simp] theorem State.setLen_decF32 : (State.setLen n s).decF32 = s.decF32 := rfl
@[simp] theorem State.setLen_sat : (State.setLen n s).sat = s.sat := rfl
@[simp] theorem State.setLen_nan : (State.setLen n s).nan = s.nan := rfl
@[simp] theorem State.setLen_trunc : (State.setLen n s).trunc = s.trunc := rfl
@[simp] theorem State.setLen_ill : (State.setLen n s).ill = s.ill := rfl
@[simp] theorem State.setLen_fire : (State.setLen n s).fire = s.fire := rfl
@[simp] theorem State.setLen_dvalid : (State.setLen n s).dvalid = s.dvalid := rfl
@[simp] theorem State.setLen_interval : (State.setLen n s).interval = s.interval := rfl
@[simp] theorem State.setLen_last : (State.setLen n s).last = s.last := rfl
@[simp] theorem State.setLen_intervalReset : (State.setLen n s).intervalReset = s.intervalReset := rfl
@[simp] theorem State.setLen_moves : (State.setLen n s).moves = s.moves := rfl
@[simp] theorem State.setLen_responses : (State.setLen n s).responses = s.responses := rfl

end setLen

section setInterval
variable (v : Word) (s : State)

@[simp] theorem State.setInterval_payload : (State.setInterval v s).payload = s.payload := rfl
@[simp] theorem State.setInterval_len : (State.setInterval v s).len = s.len := rfl
@[simp] theorem State.setInterval_decCenti : (State.setInterval v s).decCenti = s.decCenti := rfl
@[simp] theorem State.setInterval_decF32 : (State.setInterval v s).decF32 = s.decF32 := rfl
@[simp] theorem State.setInterval_sat : (State.setInterval v s).sat = s.sat := rfl
@[simp] theorem State.setInterval_nan : (State.setInterval v s).nan = s.nan := rfl
@[simp] theorem State.setInterval_trunc : (State.setInterval v s).trunc = s.trunc := rfl
@[simp] theorem State.setInterval_ill : (State.setInterval v s).ill = s.ill := rfl
@[simp] theorem State.setInterval_fire : (State.setInterval v s).fire = s.fire := rfl
@[simp] theorem State.setInterval_dvalid : (State.setInterval v s).dvalid = s.dvalid := rfl
@[simp] theorem State.setInterval_interval : (State.setInterval v s).interval = v := rfl
@[simp] theorem State.setInterval_last : (State.setInterval v s).last = s.last := rfl
@[simp] theorem State.setInterval_intervalReset : (State.setInterval v s).intervalReset = s.intervalReset := rfl
@[simp] theorem State.setInterval_moves : (State.setInterval v s).moves = s.moves := rfl
@[simp] theorem State.setInterval_responses : (State.setInterval v s).responses = s.responses := rfl

end setInterval

section setLast
variable (v : Word) (s : State)

@[simp] theorem State.setLast_payload : (State.setLast v s).payload = s.payload := rfl
@[simp] theorem State.setLast_len : (State.setLast v s).len = s.len := rfl
@[simp] theorem State.setLast_decCenti : (State.setLast v s).decCenti = s.decCenti := rfl
@[simp] theorem State.setLast_decF32 : (State.setLast v s).decF32 = s.decF32 := rfl
@[simp] theorem State.setLast_sat : (State.setLast v s).sat = s.sat := rfl
@[simp] theorem State.setLast_nan : (State.setLast v s).nan = s.nan := rfl
@[simp] theorem State.setLast_trunc : (State.setLast v s).trunc = s.trunc := rfl
@[simp] theorem State.setLast_ill : (State.setLast v s).ill = s.ill := rfl
@[simp] theorem State.setLast_fire : (State.setLast v s).fire = s.fire := rfl
@[simp] theorem State.setLast_dvalid : (State.setLast v s).dvalid = s.dvalid := rfl
@[simp] theorem State.setLast_interval : (State.setLast v s).interval = s.interval := rfl
@[simp] theorem State.setLast_last : (State.setLast v s).last = v := rfl
@[simp] theorem State.setLast_intervalReset : (State.setLast v s).intervalReset = s.intervalReset := rfl
@[simp] theorem State.setLast_moves : (State.setLast v s).moves = s.moves := rfl
@[simp] theorem State.setLast_responses : (State.setLast v s).responses = s.responses := rfl

end setLast

section setDecoded
variable (c f : Word) (s : State)

@[simp] theorem State.setDecoded_payload : (State.setDecoded c f s).payload = s.payload := rfl
@[simp] theorem State.setDecoded_len : (State.setDecoded c f s).len = s.len := rfl
@[simp] theorem State.setDecoded_decCenti : (State.setDecoded c f s).decCenti = c := rfl
@[simp] theorem State.setDecoded_decF32 : (State.setDecoded c f s).decF32 = f := rfl
@[simp] theorem State.setDecoded_sat : (State.setDecoded c f s).sat = s.sat := rfl
@[simp] theorem State.setDecoded_nan : (State.setDecoded c f s).nan = s.nan := rfl
@[simp] theorem State.setDecoded_trunc : (State.setDecoded c f s).trunc = s.trunc := rfl
@[simp] theorem State.setDecoded_ill : (State.setDecoded c f s).ill = s.ill := rfl
@[simp] theorem State.setDecoded_fire : (State.setDecoded c f s).fire = s.fire := rfl
@[simp] theorem State.setDecoded_dvalid : (State.setDecoded c f s).dvalid = true := rfl
@[simp] theorem State.setDecoded_interval : (State.setDecoded c f s).interval = s.interval := rfl
@[simp] theorem State.setDecoded_last : (State.setDecoded c f s).last = s.last := rfl
@[simp] theorem State.setDecoded_intervalReset : (State.setDecoded c f s).intervalReset = s.intervalReset := rfl
@[simp] theorem State.setDecoded_moves : (State.setDecoded c f s).moves = s.moves := rfl
@[simp] theorem State.setDecoded_responses : (State.setDecoded c f s).responses = s.responses := rfl

end setDecoded

section setFire
variable (b : Bool) (s : State)

@[simp] theorem State.setFire_payload : (State.setFire b s).payload = s.payload := rfl
@[simp] theorem State.setFire_len : (State.setFire b s).len = s.len := rfl
@[simp] theorem State.setFire_decCenti : (State.setFire b s).decCenti = s.decCenti := rfl
@[simp] theorem State.setFire_decF32 : (State.setFire b s).decF32 = s.decF32 := rfl
@[simp] theorem State.setFire_sat : (State.setFire b s).sat = s.sat := rfl
@[simp] theorem State.setFire_nan : (State.setFire b s).nan = s.nan := rfl
@[simp] theorem State.setFire_trunc : (State.setFire b s).trunc = s.trunc := rfl
@[simp] theorem State.setFire_ill : (State.setFire b s).ill = s.ill := rfl
@[simp] theorem State.setFire_fire : (State.setFire b s).fire = b := rfl
@[simp] theorem State.setFire_dvalid : (State.setFire b s).dvalid = s.dvalid := rfl
@[simp] theorem State.setFire_interval : (State.setFire b s).interval = s.interval := rfl
@[simp] theorem State.setFire_last : (State.setFire b s).last = s.last := rfl
@[simp] theorem State.setFire_intervalReset : (State.setFire b s).intervalReset = s.intervalReset := rfl
@[simp] theorem State.setFire_moves : (State.setFire b s).moves = s.moves := rfl
@[simp] theorem State.setFire_responses : (State.setFire b s).responses = s.responses := rfl

end setFire

section clearSticky
variable (m : BitVec 4) (s : State)

@[simp] theorem State.clearSticky_payload : (State.clearSticky m s).payload = s.payload := rfl
@[simp] theorem State.clearSticky_len : (State.clearSticky m s).len = s.len := rfl
@[simp] theorem State.clearSticky_decCenti : (State.clearSticky m s).decCenti = s.decCenti := rfl
@[simp] theorem State.clearSticky_decF32 : (State.clearSticky m s).decF32 = s.decF32 := rfl
@[simp] theorem State.clearSticky_sat : (State.clearSticky m s).sat = (s.sat && !m.getLsbD 0) := rfl
@[simp] theorem State.clearSticky_nan : (State.clearSticky m s).nan = (s.nan && !m.getLsbD 1) := rfl
@[simp] theorem State.clearSticky_trunc : (State.clearSticky m s).trunc = (s.trunc && !m.getLsbD 2) := rfl
@[simp] theorem State.clearSticky_ill : (State.clearSticky m s).ill = (s.ill && !m.getLsbD 3) := rfl
@[simp] theorem State.clearSticky_fire : (State.clearSticky m s).fire = s.fire := rfl
@[simp] theorem State.clearSticky_dvalid : (State.clearSticky m s).dvalid = s.dvalid := rfl
@[simp] theorem State.clearSticky_interval : (State.clearSticky m s).interval = s.interval := rfl
@[simp] theorem State.clearSticky_last : (State.clearSticky m s).last = s.last := rfl
@[simp] theorem State.clearSticky_intervalReset : (State.clearSticky m s).intervalReset = s.intervalReset := rfl
@[simp] theorem State.clearSticky_moves : (State.clearSticky m s).moves = s.moves := rfl
@[simp] theorem State.clearSticky_responses : (State.clearSticky m s).responses = s.responses := rfl

end clearSticky

section setMoves
variable (ms : List HostMove) (s : State)

@[simp] theorem State.setMoves_payload : (State.setMoves ms s).payload = s.payload := rfl
@[simp] theorem State.setMoves_len : (State.setMoves ms s).len = s.len := rfl
@[simp] theorem State.setMoves_decCenti : (State.setMoves ms s).decCenti = s.decCenti := rfl
@[simp] theorem State.setMoves_decF32 : (State.setMoves ms s).decF32 = s.decF32 := rfl
@[simp] theorem State.setMoves_sat : (State.setMoves ms s).sat = s.sat := rfl
@[simp] theorem State.setMoves_nan : (State.setMoves ms s).nan = s.nan := rfl
@[simp] theorem State.setMoves_trunc : (State.setMoves ms s).trunc = s.trunc := rfl
@[simp] theorem State.setMoves_ill : (State.setMoves ms s).ill = s.ill := rfl
@[simp] theorem State.setMoves_fire : (State.setMoves ms s).fire = s.fire := rfl
@[simp] theorem State.setMoves_dvalid : (State.setMoves ms s).dvalid = s.dvalid := rfl
@[simp] theorem State.setMoves_interval : (State.setMoves ms s).interval = s.interval := rfl
@[simp] theorem State.setMoves_last : (State.setMoves ms s).last = s.last := rfl
@[simp] theorem State.setMoves_intervalReset : (State.setMoves ms s).intervalReset = s.intervalReset := rfl
@[simp] theorem State.setMoves_moves : (State.setMoves ms s).moves = ms := rfl
@[simp] theorem State.setMoves_responses : (State.setMoves ms s).responses = s.responses := rfl

end setMoves

section appendResponse
variable (r : ResponseWord) (s : State)

@[simp] theorem State.appendResponse_payload : (State.appendResponse r s).payload = s.payload := rfl
@[simp] theorem State.appendResponse_len : (State.appendResponse r s).len = s.len := rfl
@[simp] theorem State.appendResponse_decCenti : (State.appendResponse r s).decCenti = s.decCenti := rfl
@[simp] theorem State.appendResponse_decF32 : (State.appendResponse r s).decF32 = s.decF32 := rfl
@[simp] theorem State.appendResponse_sat : (State.appendResponse r s).sat = s.sat := rfl
@[simp] theorem State.appendResponse_nan : (State.appendResponse r s).nan = s.nan := rfl
@[simp] theorem State.appendResponse_trunc : (State.appendResponse r s).trunc = s.trunc := rfl
@[simp] theorem State.appendResponse_ill : (State.appendResponse r s).ill = s.ill := rfl
@[simp] theorem State.appendResponse_fire : (State.appendResponse r s).fire = s.fire := rfl
@[simp] theorem State.appendResponse_dvalid : (State.appendResponse r s).dvalid = s.dvalid := rfl
@[simp] theorem State.appendResponse_interval : (State.appendResponse r s).interval = s.interval := rfl
@[simp] theorem State.appendResponse_last : (State.appendResponse r s).last = s.last := rfl
@[simp] theorem State.appendResponse_intervalReset : (State.appendResponse r s).intervalReset = s.intervalReset := rfl
@[simp] theorem State.appendResponse_moves : (State.appendResponse r s).moves = s.moves := rfl
@[simp] theorem State.appendResponse_responses : (State.appendResponse r s).responses = s.responses ++ [r] := rfl

end appendResponse

section setSticky
variable (c : Condition) (s : State)

@[simp] theorem State.setSticky_payload : (State.setSticky c s).payload = s.payload := by cases c <;> rfl
@[simp] theorem State.setSticky_len : (State.setSticky c s).len = s.len := by cases c <;> rfl
@[simp] theorem State.setSticky_decCenti : (State.setSticky c s).decCenti = s.decCenti := by cases c <;> rfl
@[simp] theorem State.setSticky_decF32 : (State.setSticky c s).decF32 = s.decF32 := by cases c <;> rfl
@[simp] theorem State.setSticky_sat : (State.setSticky c s).sat = (s.sat || c == .warnSat) := by cases c <;> simp [State.setSticky]
@[simp] theorem State.setSticky_nan : (State.setSticky c s).nan = (s.nan || c == .warnNan) := by cases c <;> simp [State.setSticky]
@[simp] theorem State.setSticky_trunc : (State.setSticky c s).trunc = (s.trunc || c == .errTrunc) := by cases c <;> simp [State.setSticky]
@[simp] theorem State.setSticky_ill : (State.setSticky c s).ill = (s.ill || c == .errIllegal) := by cases c <;> simp [State.setSticky]
@[simp] theorem State.setSticky_fire : (State.setSticky c s).fire = s.fire := by cases c <;> rfl
@[simp] theorem State.setSticky_dvalid : (State.setSticky c s).dvalid = s.dvalid := by cases c <;> rfl
@[simp] theorem State.setSticky_interval : (State.setSticky c s).interval = s.interval := by cases c <;> rfl
@[simp] theorem State.setSticky_last : (State.setSticky c s).last = s.last := by cases c <;> rfl
@[simp] theorem State.setSticky_intervalReset : (State.setSticky c s).intervalReset = s.intervalReset := by cases c <;> rfl
@[simp] theorem State.setSticky_moves : (State.setSticky c s).moves = s.moves := by cases c <;> rfl
@[simp] theorem State.setSticky_responses : (State.setSticky c s).responses = s.responses := by cases c <;> rfl

end setSticky

section applyReset
variable (s : State)

@[simp] theorem State.applyReset_payload : (State.applyReset s).payload = [] := rfl
@[simp] theorem State.applyReset_len : (State.applyReset s).len = 0#3 := rfl
@[simp] theorem State.applyReset_decCenti : (State.applyReset s).decCenti = 0#32 := rfl
@[simp] theorem State.applyReset_decF32 : (State.applyReset s).decF32 = 0#32 := rfl
@[simp] theorem State.applyReset_sat : (State.applyReset s).sat = false := rfl
@[simp] theorem State.applyReset_nan : (State.applyReset s).nan = false := rfl
@[simp] theorem State.applyReset_trunc : (State.applyReset s).trunc = false := rfl
@[simp] theorem State.applyReset_ill : (State.applyReset s).ill = false := rfl
@[simp] theorem State.applyReset_fire : (State.applyReset s).fire = false := rfl
@[simp] theorem State.applyReset_dvalid : (State.applyReset s).dvalid = false := rfl
@[simp] theorem State.applyReset_interval : (State.applyReset s).interval = s.intervalReset := rfl
@[simp] theorem State.applyReset_last : (State.applyReset s).last = 0#32 := rfl
@[simp] theorem State.applyReset_intervalReset : (State.applyReset s).intervalReset = s.intervalReset := rfl
@[simp] theorem State.applyReset_moves : (State.applyReset s).moves = s.moves := rfl
@[simp] theorem State.applyReset_responses : (State.applyReset s).responses = s.responses := rfl

end applyReset

section resetWith
variable (ir : Word)

@[simp] theorem State.resetWith_payload : (State.resetWith ir).payload = [] := rfl
@[simp] theorem State.resetWith_len : (State.resetWith ir).len = 0#3 := rfl
@[simp] theorem State.resetWith_decCenti : (State.resetWith ir).decCenti = 0#32 := rfl
@[simp] theorem State.resetWith_decF32 : (State.resetWith ir).decF32 = 0#32 := rfl
@[simp] theorem State.resetWith_sat : (State.resetWith ir).sat = false := rfl
@[simp] theorem State.resetWith_nan : (State.resetWith ir).nan = false := rfl
@[simp] theorem State.resetWith_trunc : (State.resetWith ir).trunc = false := rfl
@[simp] theorem State.resetWith_ill : (State.resetWith ir).ill = false := rfl
@[simp] theorem State.resetWith_fire : (State.resetWith ir).fire = false := rfl
@[simp] theorem State.resetWith_dvalid : (State.resetWith ir).dvalid = false := rfl
@[simp] theorem State.resetWith_interval : (State.resetWith ir).interval = ir := rfl
@[simp] theorem State.resetWith_last : (State.resetWith ir).last = 0#32 := rfl
@[simp] theorem State.resetWith_intervalReset : (State.resetWith ir).intervalReset = ir := rfl
@[simp] theorem State.resetWith_moves : (State.resetWith ir).moves = [] := rfl
@[simp] theorem State.resetWith_responses : (State.resetWith ir).responses = [] := rfl

end resetWith

end Sys2Proof.Machine
end

