-- ==== Sys2Proof/Laws/Ops.lean ====
section
/-! SUPPORT. The shared operations, each said once: what `respond` and `raise` answer, what the payload accesses read
and write and when they stop, that every memory operation keeps the canonical form, and that equal bytes make equal
canonical memories. -/

namespace Sys2Proof.Machine

section memory
variable (m : Memory) (a a' : Nat) (v : Byte)

@[simp] theorem Memory.lookup_nil : Memory.lookup [] a = unlistedByte := rfl

@[simp] theorem Memory.lookup_cons (c : Host.Cell) :
    Memory.lookup (c :: m) a = if c.1 = a then c.2 else Memory.lookup m a := rfl

/-- Taking an address's cells out leaves the other addresses as they were. -/
theorem Memory.lookup_filter_of_ne (h : a' ≠ a) :
    Memory.lookup (m.filter (fun c => c.1 ≠ a)) a' = Memory.lookup m a' := by
  induction m with
  | nil => rfl
  | cons c m ih =>
    by_cases hc : c.1 = a
    · simp_all [Ne.symm h]
    · simp_all

/-- Taking an address's cells out leaves it unlisted. -/
theorem Memory.lookup_filter_self :
    Memory.lookup (m.filter (fun c => c.1 ≠ a)) a = unlistedByte := by
  induction m with
  | nil => rfl
  | cons c m ih => by_cases hc : c.1 = a <;> simp_all

theorem Memory.lookup_insertCell_of_ne (h : a' ≠ a) :
    Memory.lookup (Memory.insertCell m a v) a' = Memory.lookup m a' := by
  induction m with
  | nil => simp [Memory.insertCell, Ne.symm h]
  | cons c m ih => by_cases hc : a < c.1 <;> simp [Memory.insertCell, hc, ih, Ne.symm h]

theorem Memory.lookup_insertCell_self (hm : ∀ c ∈ m, c.1 ≠ a) :
    Memory.lookup (Memory.insertCell m a v) a = v := by
  induction m with
  | nil => simp [Memory.insertCell]
  | cons c m ih =>
    by_cases hc : a < c.1
    · simp [Memory.insertCell, hc]
    · simp [Memory.insertCell, hc, hm c (by simp), ih (fun d hd => hm d (by simp [hd]))]

/-- A stored byte reads back. -/
@[simp] theorem Memory.lookup_store_self : Memory.lookup (Memory.store m a v) a = v := by
  unfold Memory.store
  split
  · rw [Memory.lookup_filter_self]; exact ‹v = unlistedByte›.symm
  · exact Memory.lookup_insertCell_self _ _ _ (by simp)

/-- A store leaves every other address as it was. -/
theorem Memory.lookup_store_of_ne (h : a' ≠ a) :
    Memory.lookup (Memory.store m a v) a' = Memory.lookup m a' := by
  unfold Memory.store
  split
  · exact Memory.lookup_filter_of_ne _ _ _ h
  · rw [Memory.lookup_insertCell_of_ne _ _ _ _ h, Memory.lookup_filter_of_ne _ _ _ h]

end memory

/-- Reading after consecutive stores: the stored bytes where they went, every other address as before. -/
theorem Memory.lookup_storeAll (bs : List Byte) (m : Memory) (a k : Nat) :
    Memory.lookup (Memory.storeAll m a bs) k =
      if a ≤ k ∧ k < a + bs.length then bs.getD (k - a) unlistedByte else Memory.lookup m k := by
  induction bs generalizing m a with
  | nil => simp [Memory.storeAll, show ¬ (a ≤ k ∧ k < a) by omega]
  | cons b bs ih =>
    rw [Memory.storeAll, ih]
    by_cases hk : k = a
    · subst hk; simp
    · by_cases h : a + 1 ≤ k ∧ k < a + 1 + bs.length
      · have h' : a ≤ k ∧ k < a + (b :: bs).length := by rw [List.length_cons]; omega
        rw [if_pos h, if_pos h', show k - a = (k - (a + 1)) + 1 by omega, List.getD_cons_succ]
      · have h' : ¬ (a ≤ k ∧ k < a + (b :: bs).length) := by rw [List.length_cons]; omega
        rw [if_neg h, if_neg h', Memory.lookup_store_of_ne _ _ _ _ hk]

/-! The canonical form. -/

theorem Memory.wf_cons (c : Host.Cell) (m : Memory) :
    Memory.wf (c :: m) = true ↔
      c.1 < 4 ∧ c.2 ≠ unlistedByte ∧ (∀ d ∈ m, c.1 < d.1) ∧ Memory.wf m = true := by
  simp [Memory.wf, and_assoc]

theorem Memory.wf_filter (p : Host.Cell → Bool) (m : Memory) (h : m.wf = true) : Memory.wf (m.filter p) = true := by
  induction m with
  | nil => rfl
  | cons c m ih =>
    obtain ⟨h1, h2, h3, h4⟩ := (Memory.wf_cons c m).1 h
    by_cases hp : p c
    · rw [List.filter_cons_of_pos hp, Memory.wf_cons]
      exact ⟨h1, h2, fun d hd => h3 d (List.mem_of_mem_filter hd), ih h4⟩
    · rw [List.filter_cons_of_neg hp]; exact ih h4

theorem Memory.mem_insertCell {m : Memory} {a : Nat} {v : Byte} {d : Host.Cell}
    (h : d ∈ Memory.insertCell m a v) : d = (a, v) ∨ d ∈ m := by
  induction m with
  | nil => simpa [Memory.insertCell] using h
  | cons c m ih =>
    by_cases hc : a < c.1
    · simpa [Memory.insertCell, hc] using h
    · simp only [Memory.insertCell, hc, if_false, List.mem_cons] at h ⊢
      rcases h with h | h
      · exact .inr (.inl h)
      · exact (ih h).imp id .inr

theorem Memory.wf_insertCell (m : Memory) (a : Nat) (v : Byte) (ha : a < 4) (hv : v ≠ unlistedByte)
    (hm : ∀ c ∈ m, c.1 ≠ a) (h : m.wf = true) : Memory.wf (Memory.insertCell m a v) = true := by
  induction m with
  | nil => simp [Memory.insertCell, Memory.wf, ha, hv]
  | cons c m ih =>
    obtain ⟨h1, h2, h3, h4⟩ := (Memory.wf_cons c m).1 h
    by_cases hc : a < c.1
    · simp only [Memory.insertCell, hc, if_true]
      rw [Memory.wf_cons]
      refine ⟨ha, hv, ?_, h⟩
      intro d hd
      rcases List.mem_cons.1 hd with rfl | hd
      · exact hc
      · exact lt_trans hc (h3 d hd)
    · simp only [Memory.insertCell, hc, if_false]
      rw [Memory.wf_cons]
      refine ⟨h1, h2, ?_, ih (fun d hd => hm d (List.mem_cons_of_mem _ hd)) h4⟩
      intro d hd
      have hne := hm c (List.mem_cons_self ..)
      rcases Memory.mem_insertCell hd with rfl | hd
      · show c.1 < a; omega
      · exact h3 d hd

/-- A store at an address that exists keeps the canonical form. -/
theorem Memory.wf_store (m : Memory) (a : Nat) (v : Byte) (ha : a < 4) (h : m.wf = true) :
    Memory.wf (Memory.store m a v) = true := by
  unfold Memory.store
  split
  · exact Memory.wf_filter _ _ h
  · exact Memory.wf_insertCell _ _ _ ha ‹_› (by simp) (Memory.wf_filter _ _ h)

/-- Consecutive stores at addresses that exist keep the canonical form. -/
theorem Memory.wf_storeAll (bs : List Byte) (m : Memory) (a : Nat) (ha : a + bs.length ≤ 4) (h : m.wf = true) :
    Memory.wf (Memory.storeAll m a bs) = true := by
  induction bs generalizing m a with
  | nil => exact h
  | cons b bs ih =>
    simp only [List.length_cons] at ha
    exact ih _ _ (by omega) (Memory.wf_store m a b (by omega) h)

/-- In canonical form an address that does not exist reads as unlisted. -/
theorem Memory.lookup_of_wf (m : Memory) (a : Nat) (ha : 4 ≤ a) (h : m.wf = true) : m.lookup a = unlistedByte := by
  induction m with
  | nil => rfl
  | cons c m ih =>
    obtain ⟨h1, _, _, h4⟩ := (Memory.wf_cons c m).1 h
    simp [show c.1 ≠ a by omega, ih h4]

/-- Equal bytes make equal canonical memories. -/
theorem Memory.eq_of_lookup (m k : Memory) (hm : m.wf = true) (hk : k.wf = true)
    (h : ∀ a, m.lookup a = k.lookup a) : m = k := by
  have unlisted : ∀ (c : Host.Cell) (l : Memory) (a : Nat), Memory.wf (c :: l) = true → a < c.1 →
      Memory.lookup (c :: l) a = unlistedByte := by
    intro c l a hw ha
    obtain ⟨_, _, h3, _⟩ := (Memory.wf_cons c l).1 hw
    have : ∀ (l : Memory), (∀ d ∈ l, a < d.1) → Memory.lookup l a = unlistedByte := by
      intro l hl
      induction l with
      | nil => rfl
      | cons d l ih =>
        have := hl d (List.mem_cons_self ..)
        rw [Memory.lookup_cons, if_neg (by omega), ih (fun e he => hl e (List.mem_cons_of_mem _ he))]
    refine this _ ?_
    intro d hd
    rcases List.mem_cons.1 hd with rfl | hd
    · exact ha
    · exact lt_trans ha (h3 d hd)
  induction m generalizing k with
  | nil =>
    cases k with
    | nil => rfl
    | cons d k =>
      have := h d.1
      simp only [Memory.lookup_nil, Memory.lookup_cons, if_true] at this
      exact absurd this.symm ((Memory.wf_cons d k).1 hk).2.1
  | cons c m ih =>
    cases k with
    | nil =>
      have := h c.1
      simp only [Memory.lookup_nil, Memory.lookup_cons, if_true] at this
      exact absurd this ((Memory.wf_cons c m).1 hm).2.1
    | cons d k =>
      obtain ⟨_, hc2, hc3, hc4⟩ := (Memory.wf_cons c m).1 hm
      obtain ⟨_, hd2, hd3, hd4⟩ := (Memory.wf_cons d k).1 hk
      have haddr : c.1 = d.1 := by
        rcases lt_trichotomy c.1 d.1 with hlt | heq | hlt
        · have := h c.1
          rw [unlisted d k c.1 hk hlt, Memory.lookup_cons, if_pos rfl] at this
          exact absurd this hc2
        · exact heq
        · have := h d.1
          rw [unlisted c m d.1 hm hlt, Memory.lookup_cons, if_pos rfl] at this
          exact absurd this.symm hd2
      have hval : c.2 = d.2 := by
        have := h c.1
        rwa [Memory.lookup_cons, if_pos rfl, Memory.lookup_cons, if_pos haddr.symm] at this
      have hcd : c = d := Prod.ext haddr hval
      subst hcd
      rw [ih k hc4 hd4 ?_]
      intro a
      have self : ∀ (l : Memory), (∀ e ∈ l, c.1 < e.1) → Memory.lookup l c.1 = unlistedByte := by
        intro l hl
        induction l with
        | nil => rfl
        | cons e l ih =>
          have := hl e (List.mem_cons_self ..)
          rw [Memory.lookup_cons, if_neg (by omega), ih (fun f hf => hl f (List.mem_cons_of_mem _ hf))]
      by_cases ha : c.1 = a
      · subst ha; rw [self m hc3, self k hd3]
      · have := h a
        rwa [Memory.lookup_cons, if_neg ha, Memory.lookup_cons, if_neg ha] at this

/-- The reset state's payload memory is canonical. -/
theorem Memory.wf_reset : State.reset.payload.wf = true := rfl

/-! The payload accesses. -/

/-- `onPayload` goes on with a value and stops with a fault. -/
@[simp] theorem onPayload_ok {α : Type} (a : α) (k : α → Host.Outcome State Fault Refusal) :
    onPayload (.ok a) k = k a := rfl

@[simp] theorem onPayload_error {α : Type} (f : Fault) (k : α → Host.Outcome State Fault Refusal) :
    onPayload (.error f) k = .fault f := rfl

theorem bigEndianAt_one (m : Memory) (a : Nat) : bigEndianAt m a 1 = m.lookup a := by
  apply BitVec.eq_of_toNat_eq
  show (0#0 ++ m.lookup a : BitVec (0 + 8)).toNat = _
  rw [BitVec.toNat_append]
  simp

theorem bigEndianAt_succ (m : Memory) (a n : Nat) :
    bigEndianAt m a (n + 1) = bigEndianAt m a n ++ m.lookup (a + n) := rfl

/-- `MemRead(0, 2)` is TEMP_RAW (10_state.md R19). -/
theorem memRead_two (s : State) : memRead 0 2 s = .ok (s.payload.lookup 0 ++ s.payload.lookup 1) :=
  congrArg (fun x : BitVec 8 => Except.ok (x ++ s.payload.lookup 1)) (bigEndianAt_one s.payload 0)

/-- `MemRead(0, 4)` is the four bytes, byte 0 most significant (20_memory.md R35). -/
theorem memRead_four (s : State) :
    memRead 0 4 s =
      .ok (s.payload.lookup 0 ++ s.payload.lookup 1 ++ s.payload.lookup 2 ++ s.payload.lookup 3) :=
  congrArg
    (fun x : BitVec 8 => Except.ok (x ++ s.payload.lookup 1 ++ s.payload.lookup 2 ++ s.payload.lookup 3))
    (bigEndianAt_one s.payload 0)

@[simp] theorem length_bytesOf (n : Nat) (v : BitVec (8 * n)) : (bytesOf n v).length = n := by simp [bytesOf]

@[simp] theorem length_loadBytes_eq (f : Nat → Byte) : ((List.range 4).map f).length = 4 := by simp

/-- Everything a write of bytes can do: it stays inside the four addresses and writes them, or it faults. -/
theorem writeBytes_cases (addr : Nat) (bs : List Byte) (s : State) :
    (addr + bs.length ≤ 4 ∧ writeBytes addr bs s = .ok { s with payload := s.payload.storeAll addr bs }) ∨
    (4 < addr + bs.length ∧ writeBytes addr bs s = .error (.payloadAddress addr bs.length)) := by
  unfold writeBytes Config.payloadLen
  split
  · exact .inl ⟨‹_›, rfl⟩
  · exact .inr ⟨by omega, rfl⟩

/-- Everything a read of n bytes can do. -/
theorem memRead_cases (addr n : Nat) (s : State) :
    (addr + n ≤ 4 ∧ memRead addr n s = .ok (bigEndianAt s.payload addr n)) ∨
    (4 < addr + n ∧ memRead addr n s = .error (.payloadAddress addr n)) := by
  unfold memRead Config.payloadLen
  split
  · exact .inl ⟨‹_›, rfl⟩
  · exact .inr ⟨by omega, rfl⟩

/-- `MemWrite(0, 4, v)` never faults. -/
theorem memWrite_four (v : BitVec (8 * 4)) (s : State) :
    memWrite 0 4 v s = .ok { s with payload := s.payload.storeAll 0 (bytesOf 4 v) } := by
  rcases writeBytes_cases 0 (bytesOf 4 v) s with ⟨_, h⟩ | ⟨h, _⟩
  · exact h
  · simp at h

/-! `respond` and `raise`. -/

/-- `respond` hands the host one word and changes nothing else. -/
theorem respond_eq (code : OutcomeCode) (data : Word) (s : State) :
    respond code data s = .next (s.appendResponse (responseWord code data)) := rfl

/-- `raise` sets the condition's sticky bit and responds (60_exceptions.md R89). -/
theorem raise_eq (c : Condition) (info : Word) (s : State) :
    raise c info s = .next ((s.setSticky c).appendResponse (responseWord (codeOf c) info)) := rfl

/-- An illegal opcode sets STATUS.ILL and responds with the opcode (60_exceptions.md R93). -/
theorem execIllegal_eq (op : Byte) (s : State) :
    execIllegal op s =
      .next ((s.setSticky .errIllegal).appendResponse (responseWord .errIllegal (op.setWidth 32))) := rfl

end Sys2Proof.Machine
end

