-- ==== Sys2Proof/Laws/Meanings.lean ====
section
/-! SUPPORT. What the operations under several meanings do, each said once: loading the payload, the bytes a write
leaves, the elapsed time as a bit-vector difference. -/

namespace Sys2Proof.Machine

@[simp] theorem length_loadBytes (n : Nat) (x : Word) : (loadBytes n x).length = 4 := by simp [loadBytes]

/-- LDP.n writes its four bytes and LEN, and responds n (41_payload.md R70). -/
theorem loadPayload_eq (n : Nat) (x : Word) (s : State) :
    loadPayload n x s =
      .next ((({ s with payload := s.payload.storeAll 0 (loadBytes n x) } : State).setLen
        (BitVec.ofNat 3 n)).appendResponse (responseWord .ok (BitVec.ofNat 32 n))) := by
  rcases writeBytes_cases 0 (loadBytes n x) s with ⟨_, h⟩ | ⟨h, _⟩
  · rw [loadPayload, h]; rfl
  · simp at h

/-- The byte a load leaves at each of the four addresses (41_payload.md R70). -/
theorem lookup_storeAll_loadBytes (m : Memory) (n : Nat) (x : Word) (a : Nat) (ha : a < 4) :
    (m.storeAll 0 (loadBytes n x)).lookup a = if a < n then operandByte x a else 0x00#8 := by
  rw [Memory.lookup_storeAll]
  simp [loadBytes, ha]

/-- The byte a 4-byte MemWrite leaves at each of the four addresses (00_scope.md R12). -/
theorem lookup_storeAll_bytesOf (m : Memory) (v : BitVec (8 * 4)) (a : Nat) (ha : a < 4) :
    (m.storeAll 0 (bytesOf 4 v)).lookup a = v.extractLsb' (24 - 8 * a) 8 := by
  rw [Memory.lookup_storeAll]
  interval_cases a <;> simp [bytesOf, List.range_succ]

/-- The elapsed time is the 32-bit difference (42_interval.md R74). -/
theorem elapsed_eq_sub (now last : Word) : elapsed now last = now - last := by
  apply BitVec.eq_of_toNat_eq
  unfold elapsed u32
  rw [BitVec.toNat_ofInt, BitVec.toNat_sub]
  have := now.isLt
  have := last.isLt
  omega

@[simp] theorem responseCode_responseWord (c : OutcomeCode) (d : Word) :
    responseCode (responseWord c d) = codeBits c :=
  extractLsb'_append_high (codeBits c) d

@[simp] theorem responseData_responseWord (c : OutcomeCode) (d : Word) : responseData (responseWord c d) = d :=
  extractLsb'_append_low (codeBits c) d

end Sys2Proof.Machine
end

