-- ==== Sys2Proof/Laws/PerInstr.lean ====
section
/-! SUPPORT. Statements made of every command, one lemma per constructor of Instr. -/

namespace Sys2Proof.Laws

/-- A command's word carries its opcode in bits 39:32 and its operand in bits 31:0 (30_encoding.md R44), and its opcode
is one that R47 assigns, where the decoder reads it (R46). -/
def EncodeFields.Statement (i : Instr) : Prop :=
  opField (encode i) = i.opcode ∧ operandField (encode i) = i.operand ∧ decodeFields i.opcode i.operand = .ok i

theorem EncodeFields.nop (x : Word) : EncodeFields.Statement (.nop x) :=
  ⟨opField_commandWord _ _, operandField_commandWord _ _, rfl⟩

theorem EncodeFields.encT (x : Word) : EncodeFields.Statement (.encT x) :=
  ⟨opField_commandWord _ _, operandField_commandWord _ _, rfl⟩

theorem EncodeFields.decT (x : Word) : EncodeFields.Statement (.decT x) :=
  ⟨opField_commandWord _ _, operandField_commandWord _ _, rfl⟩

theorem EncodeFields.ldp0 (x : Word) : EncodeFields.Statement (.ldp0 x) :=
  ⟨opField_commandWord _ _, operandField_commandWord _ _, rfl⟩

theorem EncodeFields.ldp1 (x : Word) : EncodeFields.Statement (.ldp1 x) :=
  ⟨opField_commandWord _ _, operandField_commandWord _ _, rfl⟩

theorem EncodeFields.ldp2 (x : Word) : EncodeFields.Statement (.ldp2 x) :=
  ⟨opField_commandWord _ _, operandField_commandWord _ _, rfl⟩

theorem EncodeFields.ldp3 (x : Word) : EncodeFields.Statement (.ldp3 x) :=
  ⟨opField_commandWord _ _, operandField_commandWord _ _, rfl⟩

theorem EncodeFields.ldp4 (x : Word) : EncodeFields.Statement (.ldp4 x) :=
  ⟨opField_commandWord _ _, operandField_commandWord _ _, rfl⟩

theorem EncodeFields.rdp (x : Word) : EncodeFields.Statement (.rdp x) :=
  ⟨opField_commandWord _ _, operandField_commandWord _ _, rfl⟩

theorem EncodeFields.rdc (x : Word) : EncodeFields.Statement (.rdc x) :=
  ⟨opField_commandWord _ _, operandField_commandWord _ _, rfl⟩

theorem EncodeFields.rdf (x : Word) : EncodeFields.Statement (.rdf x) :=
  ⟨opField_commandWord _ _, operandField_commandWord _ _, rfl⟩

theorem EncodeFields.rds (x : Word) : EncodeFields.Statement (.rds x) :=
  ⟨opField_commandWord _ _, operandField_commandWord _ _, rfl⟩

theorem EncodeFields.cls (x : Word) : EncodeFields.Statement (.cls x) :=
  ⟨opField_commandWord _ _, operandField_commandWord _ _, rfl⟩

theorem EncodeFields.ivSetI (x : Word) : EncodeFields.Statement (.ivSetI x) :=
  ⟨opField_commandWord _ _, operandField_commandWord _ _, rfl⟩

theorem EncodeFields.ivSetL (x : Word) : EncodeFields.Statement (.ivSetL x) :=
  ⟨opField_commandWord _ _, operandField_commandWord _ _, rfl⟩

theorem EncodeFields.ivTick (x : Word) : EncodeFields.Statement (.ivTick x) :=
  ⟨opField_commandWord _ _, operandField_commandWord _ _, rfl⟩

theorem EncodeFields.ivRdI (x : Word) : EncodeFields.Statement (.ivRdI x) :=
  ⟨opField_commandWord _ _, operandField_commandWord _ _, rfl⟩

theorem EncodeFields.ivRdL (x : Word) : EncodeFields.Statement (.ivRdL x) :=
  ⟨opField_commandWord _ _, operandField_commandWord _ _, rfl⟩

end Sys2Proof.Laws
end

