-- ==== Sys2Proof/Tests/Slice0.lean ====
section
/-! SUPPORT. Tests: the words of every command written out from the opcode map, one step of every command on a small
state with the answers of spec/95_test_vectors.md, the refusals of the well-formedness check, and for each statement with
hypotheses a state and operands that meet them. -/

namespace Sys2Proof.Tests

open Sys2Proof.Machine

/-! ## Decoding: command words written out as `OO_DDDDDDDD` from 30_encoding.md R47 -/

theorem test_decode_nop : decode 0x00DEADBEEF#40 = .ok (.nop 0xDEADBEEF#32) := by decide
theorem test_decode_encT : decode 0x1041C80000#40 = .ok (.encT 0x41C80000#32) := by decide
theorem test_decode_decT : decode 0x1100000000#40 = .ok (.decT 0#32) := by decide
theorem test_decode_ldp0 : decode 0x20FFFFFFFF#40 = .ok (.ldp0 0xFFFFFFFF#32) := by decide
theorem test_decode_ldp1 : decode 0x21ABCDEF01#40 = .ok (.ldp1 0xABCDEF01#32) := by decide
theorem test_decode_ldp2 : decode 0x224E2D9999#40 = .ok (.ldp2 0x4E2D9999#32) := by decide
theorem test_decode_ldp3 : decode 0x2311223344#40 = .ok (.ldp3 0x11223344#32) := by decide
theorem test_decode_ldp4 : decode 0x24DEADBEEF#40 = .ok (.ldp4 0xDEADBEEF#32) := by decide
theorem test_decode_rdp : decode 0x2800000000#40 = .ok (.rdp 0#32) := by decide
theorem test_decode_rdc : decode 0x3000000000#40 = .ok (.rdc 0#32) := by decide
theorem test_decode_rdf : decode 0x3100000000#40 = .ok (.rdf 0#32) := by decide
theorem test_decode_rds : decode 0x3800000000#40 = .ok (.rds 0#32) := by decide
theorem test_decode_cls : decode 0x390000000F#40 = .ok (.cls 0x0000000F#32) := by decide
theorem test_decode_ivSetI : decode 0x40000009C4#40 = .ok (.ivSetI 2500#32) := by decide
theorem test_decode_ivSetL : decode 0x41FFFFFF00#40 = .ok (.ivSetL 0xFFFFFF00#32) := by decide
theorem test_decode_ivTick : decode 0x4200000A28#40 = .ok (.ivTick 2600#32) := by decide
theorem test_decode_ivRdI : decode 0x4800000000#40 = .ok (.ivRdI 0#32) := by decide
theorem test_decode_ivRdL : decode 0x4900000000#40 = .ok (.ivRdL 0#32) := by decide
theorem test_decode_refuses_25 : decode 0x2500000000#40 = .error (.unassignedOpcode 0x25#8) := by decide
theorem test_decode_refuses_FF : decode 0xFF12345678#40 = .error (.unassignedOpcode 0xFF#8) := by decide
theorem test_decodeTableWord : decodeTableWord 40 0x4200000000 = some (.ivTick 0#32) := by decide
theorem test_decodeTableWord_refuses : decodeTableWord 40 0x2700000000 = none := by decide

/-! ## Well-formedness: a word with a nonzero ignored operand is not the assembler's form -/

theorem test_wf_refuses_nop : (Instr.nop 1#32).wellFormed = false := by decide
theorem test_wf_refuses_decT : (Instr.decT 1#32).wellFormed = false := by decide
theorem test_wf_refuses_ldp0 : (Instr.ldp0 0xFFFFFFFF#32).wellFormed = false := by decide
theorem test_wf_refuses_rdp : (Instr.rdp 1#32).wellFormed = false := by decide
theorem test_wf_refuses_rdc : (Instr.rdc 0x80000000#32).wellFormed = false := by decide
theorem test_wf_refuses_rdf : (Instr.rdf 1#32).wellFormed = false := by decide
theorem test_wf_refuses_rds : (Instr.rds 1#32).wellFormed = false := by decide
theorem test_wf_refuses_ivRdI : (Instr.ivRdI 1#32).wellFormed = false := by decide
theorem test_wf_refuses_ivRdL : (Instr.ivRdL 1#32).wellFormed = false := by decide
theorem test_wf_accepts_cls : (Instr.cls 0x00000030#32).wellFormed = true := by decide
theorem test_memory_wf_refuses_order : Memory.wf [(1, 1#8), (0, 1#8)] = false := by decide
theorem test_memory_wf_refuses_zero : Memory.wf [(1, 0#8)] = false := by decide
theorem test_memory_wf_refuses_address : Memory.wf [(4, 1#8)] = false := by decide

/-! ## One step of each command; the answers are those of 95_test_vectors.md -/

/-- The state after a step, where it goes on. -/
def nextOf (o : Host.Outcome State Fault Refusal) : Option State :=
  match o with
  | .next t => some t
  | .fault _ => none
  | .refused _ => none

/-- The state after the host issues one command word. -/
def after (w : CommandWord) (s : State) : Option State := nextOf (step (s.offerCommand w))

/-- The response to one command word. -/
def answer (w : CommandWord) (s : State) : Option ResponseWord := (after w s).bind fun t => t.responses.getLast?

/-- The reset state with four payload bytes, the last two nonzero, and LEN = n. -/
def loaded (b0 b1 : Byte) (n : BitVec 3) : State :=
  { State.reset with payload := [(0, b0), (1, b1), (2, 0xA5#8), (3, 0xA5#8)], len := n }

/-- V-ST-4. -/
theorem test_nop : answer 0x00DEADBEEF#40 State.reset = some (0#3 ++ 0x00000000#32) := by decide
/-- V-ENC-9: an exact tie. -/
theorem test_encT_tie : answer 0x10C347E000#40 State.reset = some (0#3 ++ 0x0000000D#32) := by decide
/-- V-ENC-22: the first pattern above the range. -/
theorem test_encT_sat :
    (after 0x1043E3AD71#40 State.reset).map (fun t => (t.payload, t.len, t.sat, t.responses)) =
      some ([(0, 0xFF#8), (1, 0xFF#8)], 4#3, true, [1#3 ++ 0x0000FFFF#32]) := by decide
/-- V-DEC-3: bytes 2 and 3 are not read. -/
theorem test_decT : (after 0x1100000000#40 (loaded 0x12#8 0x34#8 4#3)).map (fun t => (t.decCenti, t.decF32, t.dvalid)) =
    some (0xFFFFC414#32, 0xC3196666#32, true) := by decide
/-- V-DEC-18: a truncated decode. -/
theorem test_decT_truncated :
    (after 0x1100000000#40 (loaded 0x57#8 0xE4#8 3#3)).map (fun t => (t.responses, t.trunc, t.dvalid)) =
      some ([3#3 ++ 0x00000403#32], true, false) := by decide
/-- V-PAY-1. -/
theorem test_ldp0 : (after 0x20FFFFFFFF#40 (loaded 1#8 2#8 4#3)).map (fun t => (t.payload, t.len, t.responses)) =
    some ([], 0#3, [0#3 ++ 0#32]) := by decide
/-- V-PAY-2. -/
theorem test_ldp1 : (after 0x21ABCDEF01#40 (loaded 1#8 2#8 4#3)).map (fun t => (t.payload, t.len)) =
    some ([(0, 0xAB#8)], 1#3) := by decide
/-- V-PAY-3. -/
theorem test_ldp2 : (after 0x224E2D9999#40 (loaded 1#8 2#8 4#3)).map (fun t => (t.payload, t.len)) =
    some ([(0, 0x4E#8), (1, 0x2D#8)], 2#3) := by decide
/-- V-PAY-4. -/
theorem test_ldp3 : (after 0x2311223344#40 (loaded 1#8 2#8 4#3)).map (fun t => (t.payload, t.len)) =
    some ([(0, 0x11#8), (1, 0x22#8), (2, 0x33#8)], 3#3) := by decide
/-- V-PAY-5. -/
theorem test_ldp4 : (after 0x24DEADBEEF#40 (loaded 1#8 2#8 4#3)).map (fun t => (t.payload, t.len)) =
    some ([(0, 0xDE#8), (1, 0xAD#8), (2, 0xBE#8), (3, 0xEF#8)], 4#3) := by decide
/-- P4, command 7 (its bytes 2..3 differ here). -/
theorem test_rdp : answer 0x2800000000#40 (loaded 0x4E#8 0x2D#8 4#3) = some (0#3 ++ 0x4E2DA5A5#32) := by decide
/-- 43_status.md R83, −200.00 °C. -/
theorem test_rdc : answer 0x3000000000#40 { State.reset with decCenti := 0xFFFFB1E0#32 } = some (0#3 ++ 0xFFFFB1E0#32) := by
  decide
/-- 43_status.md R84. -/
theorem test_rdf : answer 0x3100000000#40 { State.reset with decF32 := 0x43E3ACCD#32 } = some (0#3 ++ 0x43E3ACCD#32) := by
  decide
/-- P5, command 8. -/
theorem test_rds : answer 0x3800000000#40 { State.reset with nan := true, ill := true, dvalid := true, len := 4#3 } =
    some (0#3 ++ 0x0000042A#32) := by decide
/-- 43_status.md R86. -/
theorem test_cls : answer 0x3900000001#40 { State.reset with sat := true, trunc := true, len := 4#3 } =
    some (0#3 ++ 0x00000404#32) := by decide
/-- V-ST-7: mask bits 5:4 clear nothing. -/
theorem test_cls_high_bits :
    answer 0x3900000030#40 { State.reset with
      sat := true, nan := true, trunc := true, ill := true, fire := true, dvalid := true, len := 4#3 } =
    some (0#3 ++ 0x0000043F#32) := by decide
/-- 42_interval.md R75. -/
theorem test_ivSetI : (after 0x40000009C4#40 State.reset).map (fun t => (t.interval, t.last, t.responses)) =
    some (2500#32, 0#32, [0#3 ++ 0x000009C4#32]) := by decide
/-- 42_interval.md R76. -/
theorem test_ivSetL : (after 0x41FFFFFF00#40 State.reset).map (fun t => (t.last, t.fire)) =
    some (0xFFFFFF00#32, false) := by decide
/-- V-IV-3, its first tick: 512 ms across the wrap. -/
theorem test_ivTick_wraps :
    (after 0x4200000100#40 { State.reset with interval := 500#32, last := 0xFFFFFF00#32 }).map
      (fun t => (t.last, t.fire, t.responses)) = some (0x00000100#32, true, [0#3 ++ 1#32]) := by decide
/-- V-IV-9, its first tick: the comparison is strict. -/
theorem test_ivTick_strict :
    (after 0x42000009C4#40 { State.reset with interval := 2500#32, fire := true }).map (fun t => (t.last, t.fire)) =
      some (0#32, false) := by decide
/-- 42_interval.md R78. -/
theorem test_ivRdI : answer 0x4800000000#40 { State.reset with interval := 2500#32 } = some (0#3 ++ 0x000009C4#32) := by
  decide
/-- 42_interval.md R79. -/
theorem test_ivRdL : answer 0x4900000000#40 { State.reset with last := 2600#32 } = some (0#3 ++ 0x00000A28#32) := by decide
/-- V-ST-5. -/
theorem test_illegal : (after 0xFF12345678#40 State.reset).map (fun t => (t.ill, t.responses)) =
    some (true, [4#3 ++ 0x000000FF#32]) := by decide
/-- The host's way in: the first step after reset runs the placed word. -/
theorem test_withFetchWord : (nextOf (step (State.reset.withFetchWord 40 0x1000000000))).map (fun t => t.responses) =
    some [0#3 ++ 0x00004E20#32] := by decide

/-! ## The assembly language: 30_encoding.md R56, R57 and the programs of 95_test_vectors.md -/

theorem test_encTD_nearest : assembleLine "ENC.TD 455.35" = .ok [0x1043E3ACCD#40] := by decide
/-- V-ENC-14: the binary32 of 0.005 lies below it. -/
theorem test_encTD_below : assembleLine "enc.td 0.005 ; R57" = .ok [0x103BA3D70A#40] := by decide
/-- 00_scope.md R11, rne32(0) = +0, for the literal −0.0 too (the model's choice, log entry 9). -/
theorem test_encTD_minus_zero : assembleLine "ENC.TD -0.0" = .ok [0x1000000000#40] := by decide
theorem test_ldb : assembleLine "LDB 0x4E, 0x2D" = .ok [0x224E2D0000#40] := by decide
theorem test_ivInit : assembleLine "IV.INIT 500, 0xFFFFFF00" = .ok [0x40000001F4#40, 0x41FFFFFF00#40] := by decide
theorem test_asm_refuses_operand : assembleLine "RDS 3" = .error .operandCount := by decide
theorem test_asm_refuses_name : assembleLine "HALT" = .error .unknownMnemonic := by decide
theorem test_asm_refuses_number : assembleLine "IV.TICK 0x123456789" = .error .badOperand := by decide
theorem test_disassemble : disassemble 0x390000000F#40 = "CLS 0x0000000F" := by decide
theorem test_disassemble_illegal : disassemble 0x2500000000#40 = ".cmd 0x25, 0x00000000" := by decide

/-! ## For each statement with hypotheses, a state and operands that meet them -/

/-- StepRunsTheDecodedCommand, EveryCommandGetsOneResponse. -/
theorem witness_command_pending :
    ({ State.reset with moves := [.command 0x00DEADBEEF#40] } : State).moves = .command 0x00DEADBEEF#40 :: [] ∧
      decode 0x00DEADBEEF#40 = .ok (.nop 0xDEADBEEF#32) := by decide

/-- ResponseWordIsCodeThenData, either side of its last boundary. -/
theorem witness_response_codes :
    decodeResponse (4#3 ++ 0#32) = some (.errIllegal, 0#32) ∧ decodeResponse (5#3 ++ 0#32) = none := by decide

/-- NothingHappensWithoutAHostMove. -/
theorem witness_no_move : State.reset.moves = [] := by decide

/-- IllegalOpcodeOnlySetsIll, at both ends of a range. -/
theorem witness_illegal_pending :
    isUnassigned 0x25#8 = true ∧ isUnassigned 0x27#8 = true ∧ isUnassigned 0x24#8 = false ∧ isUnassigned 0x28#8 = false ∧
      ({ State.reset with moves := [.command 0x25FFFFFFFF#40] } : State).moves =
        .command (commandWord 0x25#8 0xFFFFFFFF#32) :: [] := by decide

/-- OpcodeAloneSelectsTheCommand, either clause. -/
theorem witness_opcodes : (0x49#8 : Byte) ∈ assignedOpcodes ∧ (0x4A#8 : Byte) ∉ assignedOpcodes := by decide

/-- IgnoredOperandBitsChangeNothing, its four conditional clauses, with operands that differ. -/
theorem witness_ignored_bits :
    BitVec.extractLsb' 24 8 0xAB000000#32 = BitVec.extractLsb' 24 8 0xABFFFFFF#32 ∧
    BitVec.extractLsb' 16 16 0x4E2D0000#32 = BitVec.extractLsb' 16 16 0x4E2DFFFF#32 ∧
    BitVec.extractLsb' 8 24 0x11223300#32 = BitVec.extractLsb' 8 24 0x112233FF#32 ∧
    BitVec.extractLsb' 0 4 0x0000000F#32 = BitVec.extractLsb' 0 4 0xFFFFFFFF#32 := by decide

/-- RdpReturnsAllFourBytes, RdsReturnsTheStatusWord, OutcomeCodesByCommand, EachRegisterHasItsWriters,
TheTwoUnitsAreIndependent (codec), NoBehaviourDependsOnStatusBits: a command that answers a next state. -/
theorem witness_encT_next :
    (Instr.encT 0x447A0000#32).opcode ∈ [0x10#8, 0x11#8, 0x20#8, 0x21#8, 0x22#8, 0x23#8, 0x24#8, 0x28#8, 0x30#8, 0x31#8] ∧
      ∃ t, exec (.encT 0x447A0000#32) State.reset = .next t ∧ t.sat = true ∧ State.reset.sat = false :=
  ⟨by decide, _, rfl, rfl, rfl⟩

/-- TheTwoUnitsAreIndependent (comparator), EachRegisterHasItsWriters: a tick that moves LAST. -/
theorem witness_tick_next :
    (Instr.ivTick 5#32).opcode ∈ [0x40#8, 0x41#8, 0x42#8, 0x48#8, 0x49#8] ∧
      ∃ t, exec (.ivTick 5#32) { State.reset with interval := 4#32 } = .next t ∧ t.last = 5#32 ∧ t.fire = true :=
  ⟨by decide, _, rfl, rfl, rfl⟩

/-- The reset state satisfies the invariant, and a step from it answers a next state: RdcReturnsDecCenti,
RdfReturnsDecF32, StepKeepsTheInvariant. -/
theorem witness_inv_reset : Inv State.reset ∧ State.reset.dvalid = false ∧ ∃ t, step State.reset = .next t :=
  ⟨⟨rfl, by decide, fun _ _ => rfl, fun _ => ⟨rfl, rfl⟩, fun h => absurd h (by decide), fun _ h => by cases h⟩, rfl, _, rfl⟩

/-- A state after a decode satisfies the invariant too. -/
theorem witness_inv_decoded :
    Inv { State.reset with
      payload := [(0, 0x57#8), (1, 0xE4#8)], len := 4#3, decCenti := 0x000009C4#32, decF32 := 0x41C80000#32, dvalid := true } :=
  ⟨rfl, by decide, fun a h => by
      have h4 : 4 ≤ a := h
      show Memory.lookup [(0, 0x57#8), (1, 0xE4#8)] a = 0x00#8
      simp [show (0 : Nat) ≠ a by omega, show (1 : Nat) ≠ a by omega, unlistedByte],
    fun h => absurd h (by decide), fun _ => ⟨0x57E4#16, by decide, by decide⟩, fun _ h => by cases h⟩

/-- ClsClearsTheMaskedStickyBits, its second clause, with a nonzero operand. -/
theorem witness_cls_mask_zero : BitVec.extractLsb' 0 4 0x00000030#32 = 0#4 := by decide

/-- IvSetISetsTheInterval: an IV.SETI answers a next state, and a tick with now ≠ LAST follows. -/
theorem witness_setI :
    (∃ t, exec (.ivSetI 0x00000000#32) State.reset = .next t) ∧ (∃ t, exec (.ivSetI 0xFFFFFFFF#32) State.reset = .next t) ∧
      (1#32 : Word) ≠ State.reset.last := ⟨⟨_, rfl⟩, ⟨_, rfl⟩, by decide⟩

/-- IvSetLSetsTheMark: a mark one ahead of `now`. -/
theorem witness_setL :
    (∃ t, exec (.ivSetL 0x00000064#32) State.reset = .next t) ∧ (0x63#32 : Word).toNat < (0x64#32 : Word).toNat :=
  ⟨⟨_, rfl⟩, by decide⟩

/-- IvTickFiresWhenElapsedExceedsInterval: elapsed = INTERVAL + 1 meets the first clause, elapsed = INTERVAL the second. -/
theorem witness_tick_boundary :
    ((2500#32 : Word).toNat : Int) < (((2501#32 : Word).toNat : Int) - (0#32 : Word).toNat) % 2 ^ 32 ∧
      (((2500#32 : Word).toNat : Int) - (0#32 : Word).toNat) % 2 ^ 32 ≤ (2500#32 : Word).toNat := by decide

/-- LdpLoadsBytesAndZeroPads, its last clause; LoadThenReadMasksTheOperand; ReceivePathDecodesOrTruncates. -/
theorem witness_ldp :
    Instr.ldp3 7#32 ∈ [Instr.ldp0 7#32, .ldp1 7#32, .ldp2 7#32, .ldp3 7#32] ∧
      (Instr.ldp3 7#32, 3) ∈ [(Instr.ldp0 7#32, 0), (Instr.ldp1 7#32, 1), (Instr.ldp2 7#32, 2), (Instr.ldp3 7#32, 3)] ∧
      (Instr.ldp4 7#32, 4) ∈
        [(Instr.ldp0 7#32, 0), (Instr.ldp1 7#32, 1), (Instr.ldp2 7#32, 2), (Instr.ldp3 7#32, 3), (Instr.ldp4 7#32, 4)] ∧
      ∃ t, exec (.ldp3 7#32) State.reset = .next t := ⟨by decide, by decide, by decide, _, rfl⟩

/-- EncTEncodesAndReports, each outcome, at the boundary patterns of 40_codec.md R59. -/
theorem witness_encT_outcomes :
    (encRaw 0xC3480147#32).2 = .ok ∧ (encRaw 0xC3480148#32).2 = .sat ∧ (encRaw 0x43E3AD70#32).2 = .ok ∧
      (encRaw 0x43E3AD71#32).2 = .sat ∧ (encRaw 0xFF800000#32).2 = .sat ∧ (encRaw 0x7F800000#32).2 = .sat ∧
      (encRaw 0x7F800001#32).2 = .nan ∧ real 0xFFFFFFFF#32 = .nan ∧ (BitVec.extractLsb' 0 31 0xBBA3D70A#32).toNat = 0x3BA3D70A ∧
      (encRaw 0xBBA3D70A#32).1 = 20000#16 ∧ (encRaw 0x3BA3D70B#32).1 = 20001#16 := by decide

/-- DecTDecodesOrReportsTruncation, either clause; EncodeAfterDecodeIsExact. -/
theorem witness_decT :
    (loaded 0x57#8 0xE4#8 4#3).len = 4#3 ∧ (loaded 0x57#8 0xE4#8 3#3).len ≠ 4#3 ∧
      (∃ t, exec (.decT 0#32) (loaded 0x57#8 0xE4#8 4#3) = .next t) ∧
      ∃ t, exec (.decT 0#32) (loaded 0x57#8 0xE4#8 3#3) = .next t := ⟨by decide, by decide, ⟨_, rfl⟩, ⟨_, rfl⟩⟩

/-- ElapsedIsTheModularDifference, TickIsCorrectAcrossWraparound: the largest elapsed time. -/
theorem witness_elapsed : 2 ^ 32 - 1 < 2 ^ 32 ∧
    (elapsed (BitVec.ofNat 32 ((5#32 : Word).toNat + (2 ^ 32 - 1))) 5#32).toNat = 2 ^ 32 - 1 := by decide

/-- ResetMoveRestoresTheResetState. -/
theorem witness_reset_pending : ({ State.reset with moves := [.reset], sat := true } : State).moves = .reset :: [] := by decide

/-- NothingSurvivesReset: two different states with the same INTERVAL_RESET. -/
theorem witness_same_parameter :
    State.reset.intervalReset = (loaded 1#8 2#8 4#3).intervalReset ∧ State.reset ≠ loaded 1#8 2#8 4#3 := by decide

/-- RecommendedResetNeverFires: moves without an IV.SETI, a tick among them. -/
theorem witness_no_setI : ∀ w, HostMove.command w ∈ [HostMove.command 0x42FFFFFFFF#40, .reset] → opField w ≠ 0x40#8 := by
  intro w hw
  have : w = 0x42FFFFFFFF#40 := by simpa using hw
  subst this
  decide

/-- ReadsHaveNoSideEffects: its first clause; each read with a command word between (an illegal one where that writes
nothing the read reads); two states that differ where an RDP and an RDS read nothing. -/
theorem witness_read :
    Instr.rds 1#32 ∈ [Instr.rdp 1#32, .rdc 1#32, .rdf 1#32, .rds 1#32, .ivRdI 1#32, .ivRdL 1#32] ∧
    (∀ p ∈ writersOfRead, (if p.1 = 0x38#8 then 0x49#8 else 0x4A#8) ∉ p.2 ∧ p.1 ∈ assignedOpcodes) ∧
    (∀ a, a < 4 → readByte a State.reset = readByte a { State.reset with last := 1#32 }) ∧
    ({ State.reset with last := 1#32 } : State).status = State.reset.status := by decide

/-- NoBehaviourDependsOnStatusBits: its two clauses on the response; each side of StatusBitTreatedAlike. -/
theorem witness_status_bits :
    (Instr.decT 0#32).opcode ≠ 0x38#8 ∧ (Instr.decT 0#32).opcode ≠ 0x39#8 ∧ (Instr.cls 1#32).opcode = 0x39#8 ∧
      StatusBitTreatedAlike false false true true ∧ StatusBitTreatedAlike false true true true ∧
      ¬ StatusBitTreatedAlike false true false false := by
  unfold StatusBitTreatedAlike
  decide

/-- PayloadReadsBackWhatWasWritten: the last access that fits, and the first that does not. -/
theorem witness_accesses : 2 + 2 ≤ 4 ∧ 4 < 3 + 2 := by decide

/-- RealReadsBinary32Patterns: the exponent at each end of its ranges, both infinities, a NaN. -/
theorem witness_binary32_classes :
    (BitVec.extractLsb' 23 8 0x007FFFFF#32).toNat = 0 ∧ (BitVec.extractLsb' 23 8 0x00800000#32).toNat = 1 ∧
      (BitVec.extractLsb' 23 8 0x7F7FFFFF#32).toNat = 254 ∧ (BitVec.extractLsb' 23 8 0x7F800000#32).toNat = 255 ∧
      (BitVec.extractLsb' 0 23 0x7F800000#32).toNat = 0 ∧ (BitVec.extractLsb' 31 1 0x7F800000#32).toNat = 0 ∧
      (BitVec.extractLsb' 31 1 0xFF800000#32).toNat = 1 ∧ (BitVec.extractLsb' 0 23 0x7F800001#32).toNat ≠ 0 := by decide

/-- RoundHalfAwayIsNearestAwayFromZero, RneIsNearestTiesToEven: the ends of the range, denominator 100. -/
theorem witness_rounding :
    0 < 100 ∧ -20000 * ((100 : Nat) : Int) ≤ 100 * (-20000) ∧ 100 * 45535 ≤ 45535 * ((100 : Nat) : Int) := by decide

/-- EncodingIsMonotone, EncoderAgreesWithDoublePrecision. -/
theorem witness_order : realLe (real 0xC3480000#32) (real 0x43E3ACCD#32) ∧ real 0x3F800000#32 = .finite (2 ^ 149) := by
  refine ⟨?_, by decide⟩
  rw [show real 0xC3480000#32 = .finite (-(200 * 2 ^ 149)) by decide,
    show real 0x43E3ACCD#32 = .finite (14920909 * 2 ^ 134) by decide]
  show (-(200 * 2 ^ 149) : Int) ≤ 14920909 * 2 ^ 134
  decide

/-- SaturationHasTheseBoundaries: the first saturating pattern at either end. -/
theorem witness_saturation :
    (∃ n, real 0xC3480148#32 = .finite n ∧ ulpsToRat n ≤ -200005 / 1000) ∧
      (∃ n, real 0x43E3AD71#32 = .finite n ∧ 455355 / 1000 ≤ ulpsToRat n) := by
  refine ⟨⟨-(13107528 * 2 ^ 133), by decide, ?_⟩, ⟨14921073 * 2 ^ 134, by decide, ?_⟩⟩ <;>
    norm_num [ulpsToRat, zpow_neg]

/-- DecodedValueIsNearestAndNormal, EncoderIsExactOnCenti, DecodeAfterEncodeIsExact: the ends of the range of k, and a raw
value that is not 20000. -/
theorem witness_centi_range : (-20000 : Int) ≤ -20000 ∧ (-20000 : Int) ≤ 45535 ∧ (0xFFFF#16 : Raw) ≠ 20000#16 := by decide

/-- SpacedTicksFireOnTrueTime: ticks as far apart as INTERVAL = 2500 allows, over two wraps. -/
theorem witness_spaced :
    ({ State.reset with last := 5#32, interval := 2500#32 } : State).last = BitVec.ofNat 32 5 ∧
      SpacedBy (2 ^ 32 - 1 - (2500#32 : Word).toNat) 5 [5 + (2 ^ 32 - 2501), 5 + 2 * (2 ^ 32 - 2501)] := by
  refine ⟨rfl, ?_⟩
  simp [SpacedBy]

/-- PseudoInstructionsExpand: five bytes. -/
theorem witness_ldb_too_long : 4 < [1#8, 2#8, 3#8, 4#8, 5#8].length := by decide

/-- AssemblerReadsTheDisassembly: an illegal word, a word in the assembler's form, one that is not. -/
theorem witness_disassembly :
    decode 0x2500000001#40 = .error (.unassignedOpcode 0x25#8) ∧ decode 0x3900000030#40 = .ok (.cls 0x30#32) ∧
      (Instr.cls 0x30#32).wellFormed = true ∧ decode 0x3800000001#40 = .ok (.rds 1#32) := by decide

end Sys2Proof.Tests
end

/-! ## Scope: the step is total, and the value of a binary32 pattern (00_scope.md R7, R10) -/

namespace Sys2Proof.Proofs

open Sys2Proof.Machine

/-! ### The decoder on assigned and unassigned opcodes -/

/-- An assigned opcode decodes, with any operand, to a command of that opcode and operand (30_encoding.md R46). -/
theorem decodeFields_of_mem {op : Byte} (h : op ∈ assignedOpcodes) (x : Word) :
    ∃ i : Instr, decodeFields op x = .ok i ∧ i.opcode = op ∧ i.operand = x := by
  simp only [assignedOpcodes, List.mem_cons, List.not_mem_nil, or_false] at h
  rcases h with rfl | rfl | rfl | rfl | rfl | rfl | rfl | rfl | rfl | rfl | rfl | rfl | rfl | rfl | rfl | rfl | rfl | rfl
    <;> exact ⟨_, rfl, rfl, rfl⟩

/-- An unassigned opcode is rejected by name, whatever the operand (30_encoding.md R51). -/
theorem decodeFields_of_not_mem {op : Byte} (h : op ∉ assignedOpcodes) (x : Word) :
    decodeFields op x = .error (.unassignedOpcode op) := by
  simp only [assignedOpcodes, List.mem_cons, List.not_mem_nil, or_false, not_or] at h
  unfold decodeFields
  split <;> simp_all

/-! ### What ENC.T and DEC.T answer -/

/-- The state ENC.T leaves before any sticky bit is set: the raw value in bytes 0 and 1, zeros in bytes 2 and 3, LEN = 4
(40_codec.md R59). -/
def encoded (x : Word) (s : State) : State :=
  ({ s with payload := s.payload.storeAll 0 (bytesOf 4 ((encRaw x).1 ++ 0x0000#16)) } : State).setLen 4#3

@[simp] theorem encoded_moves (x : Word) (s : State) : (encoded x s).moves = s.moves := rfl

@[simp] theorem encoded_responses (x : Word) (s : State) : (encoded x s).responses = s.responses := rfl

/-- The three outcomes of ENC.T; the payload write never faults (40_codec.md R59). -/
theorem execEncT_eq (x : Word) (s : State) :
    execEncT x s =
      match (encRaw x).2 with
      | .ok => respond .ok ((encRaw x).1.setWidth 32) (encoded x s)
      | .sat => raise .warnSat ((encRaw x).1.setWidth 32) (encoded x s)
      | .nan => raise .warnNan ((encRaw x).1.setWidth 32) (encoded x s) := by
  simp only [execEncT, memWrite_four, onPayload_ok]
  rfl

/-- DEC.T with LEN = 4 decodes TEMP_RAW; the payload read never faults (40_codec.md R61). -/
theorem execDecT_of_len_eq (x : Word) {s : State} (h : s.len = 4#3) :
    execDecT x s =
      respond .ok (s32 (decCenti s.tempRaw)) (s.setDecoded (s32 (decCenti s.tempRaw)) (decF32 s.tempRaw)) := by
  rw [execDecT, if_neg (not_not.mpr h), memRead_two]
  rfl

/-- DEC.T with any other LEN skips the decode (60_exceptions.md R92). -/
theorem execDecT_of_len_ne (x : Word) {s : State} (h : s.len ≠ 4#3) :
    execDecT x s = raise .errTrunc (truncInfo s.len) s := if_pos h

/-- RDP reads the four bytes and never faults (41_payload.md R71). -/
theorem execRdp_eq (x : Word) (s : State) :
    execRdp x s =
      respond .ok
        (s.payload.lookup 0 ++ s.payload.lookup 1 ++ s.payload.lookup 2 ++ s.payload.lookup 3 : Word) s := by
  rw [execRdp, memRead_four]
  rfl

/-! ### Every command responds once -/

/-- The outcome `o` of a command run in `s` is a next state with one response word appended, which is not ERR_ILLEGAL,
and with the host's further moves as they were. -/
def RespondsOnce (s : State) (o : Host.Outcome State Fault Refusal) : Prop :=
  ∃ (t : State) (c : OutcomeCode) (d : Word), o = .next t ∧ t.moves = s.moves ∧
    t.responses = s.responses ++ [responseWord c d] ∧ c ≠ .errIllegal

/-- Ending a command by `respond`, after writes to registers alone. -/
theorem respondsOnce_respond {s t : State} {c : OutcomeCode} (d : Word) (hc : c ≠ .errIllegal)
    (hm : t.moves = s.moves) (hr : t.responses = s.responses) : RespondsOnce s (respond c d t) :=
  ⟨_, c, d, respond_eq c d t, by simp [hm], by simp [hr], hc⟩

/-- Ending a command by `raise`, which responds with the condition's own code. -/
theorem respondsOnce_raise {s t : State} {c : Condition} (d : Word) (hc : codeOf c ≠ .errIllegal)
    (hm : t.moves = s.moves) (hr : t.responses = s.responses) : RespondsOnce s (raise c d t) :=
  respondsOnce_respond d hc (by simp [hm]) (by simp [hr])

theorem respondsOnce_encT (x : Word) (s : State) : RespondsOnce s (execEncT x s) := by
  rw [execEncT_eq]
  cases (encRaw x).2 with
  | ok => exact respondsOnce_respond _ (by decide) rfl rfl
  | sat => exact respondsOnce_raise _ (by decide) rfl rfl
  | nan => exact respondsOnce_raise _ (by decide) rfl rfl

theorem respondsOnce_decT (x : Word) (s : State) : RespondsOnce s (execDecT x s) := by
  by_cases h : s.len = 4#3
  · rw [execDecT_of_len_eq x h]
    exact respondsOnce_respond _ (by decide) rfl rfl
  · rw [execDecT_of_len_ne x h]
    exact respondsOnce_raise _ (by decide) rfl rfl

theorem respondsOnce_loadPayload (n : Nat) (x : Word) (s : State) : RespondsOnce s (loadPayload n x s) := by
  rw [loadPayload_eq]
  exact respondsOnce_respond _ (by decide) rfl rfl

theorem respondsOnce_rdp (x : Word) (s : State) : RespondsOnce s (execRdp x s) := by
  rw [execRdp_eq]
  exact respondsOnce_respond _ (by decide) rfl rfl

theorem respondsOnce_ivTick (x : Word) (s : State) : RespondsOnce s (execIvTick x s) := by
  unfold execIvTick
  split
  · exact respondsOnce_respond _ (by decide) rfl rfl
  · exact respondsOnce_respond _ (by decide) rfl rfl

/-- Each of the 18 commands, in every state, gives one response and none of them ERR_ILLEGAL. -/
theorem respondsOnce_exec (i : Instr) (s : State) : RespondsOnce s (exec i s) := by
  cases i with
  | encT x => exact respondsOnce_encT x s
  | decT x => exact respondsOnce_decT x s
  | ldp0 x => exact respondsOnce_loadPayload 0 x s
  | ldp1 x => exact respondsOnce_loadPayload 1 x s
  | ldp2 x => exact respondsOnce_loadPayload 2 x s
  | ldp3 x => exact respondsOnce_loadPayload 3 x s
  | ldp4 x => exact respondsOnce_loadPayload 4 x s
  | rdp x => exact respondsOnce_rdp x s
  | ivTick x => exact respondsOnce_ivTick x s
  | nop | rdc | rdf | rds | cls | ivSetI | ivSetL | ivRdI | ivRdL =>
    exact respondsOnce_respond _ (by decide) rfl rfl

/-! ### The command port -/

/-- A pending command word is taken off the host's moves and run (00_scope.md R7). -/
theorem step_of_command {s : State} {w : CommandWord} {rest : List HostMove} (h : s.moves = .command w :: rest) :
    step s = runCommand w (s.setMoves rest) := by
  rw [step, takeMove, h]

/-- A word with an assigned opcode runs a command of that opcode (30_encoding.md R46). -/
theorem runCommand_of_mem {w : CommandWord} (h : opField w ∈ assignedOpcodes) (s : State) :
    ∃ i : Instr, runCommand w s = exec i s ∧ i.opcode = opField w ∧ i.operand = operandField w := by
  obtain ⟨i, hi, hop, hx⟩ := decodeFields_of_mem h (operandField w)
  exact ⟨i, by rw [runCommand, decode, hi], hop, hx⟩

/-- A word with an unassigned opcode is an illegal command (60_exceptions.md R93). -/
theorem runCommand_of_not_mem {w : CommandWord} (h : opField w ∉ assignedOpcodes) (s : State) :
    runCommand w s = execIllegal (opField w) s := by
  rw [runCommand, decode, decodeFields_of_not_mem h]

/-- Settles O29: an assigned opcode by `respondsOnce_exec`, an unassigned one by the rule of ERR_ILLEGAL. -/
theorem everyCommandGetsOneResponse : Obligations.EveryCommandGetsOneResponse := by
  intro s w rest hs
  rw [step_of_command hs]
  by_cases h : opField w ∈ assignedOpcodes
  · obtain ⟨i, hi, -, -⟩ := runCommand_of_mem h (s.setMoves rest)
    obtain ⟨t, c, d, ht, hm, hr, hc⟩ := respondsOnce_exec i (s.setMoves rest)
    exact ⟨t, c, d, hi.trans ht, hm, hr, iff_of_false hc (not_not.mpr h)⟩
  · rw [runCommand_of_not_mem h, execIllegal_eq]
    exact ⟨_, .errIllegal, (opField w).setWidth 32, rfl, by simp, by simp, iff_of_true rfl h⟩

/-! ### The value of a binary32 pattern -/

/-- The sign bit as the one-bit field of 00_scope.md R10. -/
theorem toNat_signField (b : Word) : (b.extractLsb' 31 1).toNat = (b.getLsbD 31).toNat := by
  rw [← BitVec.toNat_ofBool]
  congr 1
  ext i hi
  obtain rfl : i = 0 := by omega
  simp

/-- A sign and a magnitude in units of 2^(-149), as a rational. -/
theorem ulpsToRat_signedInt (negative : Bool) (k : Nat) :
    ulpsToRat (signedInt negative k) = (-1) ^ negative.toNat * k * (2 : ℚ) ^ (-149 : ℤ) := by
  cases negative <;> simp [ulpsToRat, signedInt]

/-- Zero and the subnormals: the fraction counts units of 2^(-149). -/
theorem real_of_exponent_zero {b : Word} (he : (b.extractLsb' 23 8).toNat = 0) :
    real b = .finite (signedInt (b.getLsbD 31) (b.extractLsb' 0 23).toNat) := by
  simp [real, he]

/-- The normal numbers: hidden bit and fraction, scaled by the exponent. -/
theorem real_of_normal {b : Word} (h0 : 0 < (b.extractLsb' 23 8).toNat) (h255 : (b.extractLsb' 23 8).toNat < 255) :
    real b = .finite (signedInt (b.getLsbD 31)
      ((2 ^ 23 + (b.extractLsb' 0 23).toNat) * 2 ^ ((b.extractLsb' 23 8).toNat - 1))) := by
  simp only [real, if_neg h255.ne, if_neg h0.ne']

/-- Exponent 255 and fraction 0: the infinity of the sign. -/
theorem real_of_infinity {b : Word} (he : (b.extractLsb' 23 8).toNat = 255) (hm : (b.extractLsb' 0 23).toNat = 0) :
    real b = if b.getLsbD 31 then .negInf else .posInf := by
  simp only [real, if_pos he, if_pos hm]

/-- Exponent 255 and any other fraction: NaN, whatever the sign and the payload. -/
theorem real_of_nan {b : Word} (he : (b.extractLsb' 23 8).toNat = 255) (hm : (b.extractLsb' 0 23).toNat ≠ 0) :
    real b = .nan := by
  simp only [real, if_pos he, if_neg hm]

/-- The model's scale, 2^(e-1) units of 2^(-149), is the 2^(e-150) of 00_scope.md R10. -/
theorem two_pow_pred_mul_ulp {e : Nat} (h : 0 < e) :
    (2 : ℚ) ^ (e - 1) * 2 ^ (-149 : ℤ) = 2 ^ ((e : ℤ) - 150) := by
  rw [← zpow_natCast, ← zpow_add₀ two_ne_zero]
  congr 1
  omega

/-- Settles O41, one case per class of pattern. -/
theorem realReadsBinary32Patterns : Obligations.RealReadsBinary32Patterns := by
  intro b s e m
  have hs : s = (b.getLsbD 31).toNat := toNat_signField b
  refine ⟨fun he => ?subnormal, fun h0 h255 => ?normal, fun he hm h => ?posInf, fun he hm h => ?negInf,
    fun he hm => real_of_nan he hm⟩
  case subnormal => exact ⟨_, real_of_exponent_zero he, by rw [hs, ulpsToRat_signedInt]⟩
  case normal =>
    refine ⟨_, real_of_normal h0 h255, ?_⟩
    calc ulpsToRat (signedInt (b.getLsbD 31) ((2 ^ 23 + m) * 2 ^ (e - 1)))
        = (-1) ^ s * (2 ^ 23 + m) * ((2 : ℚ) ^ (e - 1) * 2 ^ (-149 : ℤ)) := by
          rw [ulpsToRat_signedInt, hs]
          push_cast
          ring
      _ = (-1) ^ s * (2 ^ 23 + m) * (2 : ℚ) ^ ((e : ℤ) - 150) := by rw [two_pow_pred_mul_ulp h0]
  case posInf =>
    have hsign : b.getLsbD 31 = false := Bool.toNat_eq_zero.mp (hs ▸ h)
    rw [real_of_infinity he hm, hsign, if_neg Bool.false_ne_true]
  case negInf =>
    have hsign : b.getLsbD 31 = true := Bool.toNat_eq_one.mp (hs ▸ h)
    rw [real_of_infinity he hm, if_pos hsign]

end Sys2Proof.Proofs

/-! ## State: the payload bytes, and the reset values (10_state.md R30) -/

namespace Sys2Proof.Proofs

open Sys2Proof.Machine

/-! ### Reading a payload byte -/

/-- A payload address that exists reads the byte there (20_memory.md R32). -/
theorem readByte_of_lt {a : Nat} (h : a < 4) (s : State) : readByte a s = .ok (s.payload.lookup a) := if_pos h

/-! ### The state after reset -/

/-- The payload after reset lists no byte, so each of the four reads as the unlisted byte, 0x00. -/
theorem readByte_resetWith {a : Nat} (h : a < 4) (ir : Word) : readByte a (State.resetWith ir) = .ok 0x00#8 := by
  rw [readByte_of_lt h, State.resetWith_payload, Memory.lookup_nil, unlistedByte]

/-- Settles O25: the payload by `readByte_resetWith`, each register by its reset law. -/
theorem resetLeavesTheListedValues : Obligations.ResetLeavesTheListedValues := by
  intro ir
  refine ⟨fun a ha => readByte_resetWith ha ir, ?registers⟩
  case registers => simp

end Sys2Proof.Proofs

/-! ## The six reads and what may write what they read (20_memory.md R39) -/

namespace Sys2Proof.Proofs

open Sys2Proof.Machine

/-! ### What a command word can write -/

/-- The opcodes that write PAYLOAD and LEN: ENC.T and LDP.0 to LDP.4 (10_state.md R17, R18). -/
def payloadWriters : List Byte := [0x10#8, 0x20#8, 0x21#8, 0x22#8, 0x23#8, 0x24#8]

/-- The opcodes that only respond: NOP and the six reads. -/
def quietOpcodes : List Byte := [0x00#8, 0x28#8, 0x30#8, 0x31#8, 0x38#8, 0x48#8, 0x49#8]

/-- Everything a command word can do to the state `s`, by its opcode: the registers it may write, and the one response
word it appends. The written values are arbitrary here: this is the frame of every command and of an illegal word. -/
inductive CommandEffect (s : State) : Byte → State → Prop
  | quiet {op : Byte} (h : op ∈ quietOpcodes) (r : ResponseWord) : CommandEffect s op (s.appendResponse r)
  | payload {op : Byte} (h : op ∈ payloadWriters) (r : ResponseWord) (p : Memory) (n : BitVec 3) (sa na : Bool) :
      CommandEffect s op (({ s with payload := p, len := n, sat := sa, nan := na } : State).appendResponse r)
  | decode (r : ResponseWord) (c f : Word) (dv tr : Bool) :
      CommandEffect s 0x11#8
        (({ s with decCenti := c, decF32 := f, dvalid := dv, trunc := tr } : State).appendResponse r)
  | clear (r : ResponseWord) (m : BitVec 4) : CommandEffect s 0x39#8 ((s.clearSticky m).appendResponse r)
  | interval (r : ResponseWord) (v : Word) : CommandEffect s 0x40#8 ((s.setInterval v).appendResponse r)
  | mark (r : ResponseWord) (v : Word) : CommandEffect s 0x41#8 ((s.setLast v).appendResponse r)
  | tick (r : ResponseWord) (v : Word) (b : Bool) :
      CommandEffect s 0x42#8 (((s.setLast v).setFire b).appendResponse r)
  | illegal {op : Byte} (h : op ∉ assignedOpcodes) (r : ResponseWord) :
      CommandEffect s op ((s.setSticky .errIllegal).appendResponse r)

theorem commandEffect_encT (x : Word) (s : State) : ∃ t, execEncT x s = .next t ∧ CommandEffect s 0x10#8 t := by
  rw [execEncT_eq]
  cases (encRaw x).2 with
  | ok => exact ⟨_, rfl, .payload (by decide) _ (encoded x s).payload 4#3 s.sat s.nan⟩
  | sat => exact ⟨_, rfl, .payload (by decide) _ (encoded x s).payload 4#3 true s.nan⟩
  | nan => exact ⟨_, rfl, .payload (by decide) _ (encoded x s).payload 4#3 s.sat true⟩

theorem commandEffect_decT (x : Word) (s : State) : ∃ t, execDecT x s = .next t ∧ CommandEffect s 0x11#8 t := by
  by_cases h : s.len = 4#3
  · rw [execDecT_of_len_eq x h]
    exact ⟨_, rfl, .decode _ _ _ true s.trunc⟩
  · rw [execDecT_of_len_ne x h]
    exact ⟨_, rfl, .decode _ s.decCenti s.decF32 s.dvalid true⟩

theorem commandEffect_loadPayload {op : Byte} (h : op ∈ payloadWriters) (n : Nat) (x : Word) (s : State) :
    ∃ t, loadPayload n x s = .next t ∧ CommandEffect s op t :=
  ⟨_, loadPayload_eq n x s, .payload h _ _ _ s.sat s.nan⟩

theorem commandEffect_ivTick (x : Word) (s : State) : ∃ t, execIvTick x s = .next t ∧ CommandEffect s 0x42#8 t := by
  unfold execIvTick
  split
  · exact ⟨_, rfl, .tick _ x true⟩
  · exact ⟨_, rfl, .tick _ s.last false⟩

/-- Each of the 18 commands completes, within the frame of its opcode. -/
theorem exec_commandEffect (i : Instr) (s : State) : ∃ t, exec i s = .next t ∧ CommandEffect s i.opcode t := by
  cases i with
  | encT x => exact commandEffect_encT x s
  | decT x => exact commandEffect_decT x s
  | ldp0 x => exact commandEffect_loadPayload (op := 0x20#8) (by decide) 0 x s
  | ldp1 x => exact commandEffect_loadPayload (op := 0x21#8) (by decide) 1 x s
  | ldp2 x => exact commandEffect_loadPayload (op := 0x22#8) (by decide) 2 x s
  | ldp3 x => exact commandEffect_loadPayload (op := 0x23#8) (by decide) 3 x s
  | ldp4 x => exact commandEffect_loadPayload (op := 0x24#8) (by decide) 4 x s
  | rdp x => exact ⟨_, execRdp_eq x s, .quiet (op := 0x28#8) (by decide) _⟩
  | nop | rdc | rdf | rds | ivRdI | ivRdL => exact ⟨_, rfl, .quiet (by simp [quietOpcodes, Instr.opcode]) _⟩
  | cls x => exact ⟨_, rfl, .clear _ _⟩
  | ivSetI x => exact ⟨_, rfl, .interval _ _⟩
  | ivSetL x => exact ⟨_, rfl, .mark _ _⟩
  | ivTick x => exact commandEffect_ivTick x s

/-- Every command word, assigned or not, completes within the frame of its opcode. -/
theorem runCommand_commandEffect (w : CommandWord) (s : State) :
    ∃ t, runCommand w s = .next t ∧ CommandEffect s (opField w) t := by
  by_cases h : opField w ∈ assignedOpcodes
  · obtain ⟨i, hi, hop, -⟩ := runCommand_of_mem h s
    rw [hi, ← hop]
    exact exec_commandEffect i s
  · rw [runCommand_of_not_mem h]
    exact ⟨_, execIllegal_eq _ s, .illegal h _⟩

/-! ### The frame of each register -/

/-- An opcode that 30_encoding.md R47 does not assign lies in one of the ranges of R51. -/
theorem mem_unassignedOpcodes {op : Byte} (h : op ∉ assignedOpcodes) : op ∈ unassignedOpcodes := by
  have hrange : ∀ b : Byte, b ∉ assignedOpcodes → isUnassigned b = true := by decide
  exact List.mem_filter.mpr ⟨List.mem_map.mpr ⟨op.toNat, List.mem_range.mpr op.isLt, by simp⟩, hrange op h⟩

section frame
variable {s t : State} {op : Byte}

/-- No command word touches the host's further moves. -/
theorem CommandEffect.moves_eq (h : CommandEffect s op t) : t.moves = s.moves := by
  cases h with
  | illegal => simp
  | quiet | payload | decode | clear | interval | mark | tick => rfl

theorem CommandEffect.payload_eq (h : CommandEffect s op t) (hop : op ∉ payloadWriters) : t.payload = s.payload := by
  cases h with
  | payload hw => exact absurd hw hop
  | illegal => simp
  | quiet | decode | clear | interval | mark | tick => rfl

theorem CommandEffect.decCenti_eq (h : CommandEffect s op t) (hop : op ∉ [0x11#8]) : t.decCenti = s.decCenti := by
  cases h with
  | decode => exact absurd List.mem_cons_self hop
  | illegal => simp
  | quiet | payload | clear | interval | mark | tick => rfl

theorem CommandEffect.decF32_eq (h : CommandEffect s op t) (hop : op ∉ [0x11#8]) : t.decF32 = s.decF32 := by
  cases h with
  | decode => exact absurd List.mem_cons_self hop
  | illegal => simp
  | quiet | payload | clear | interval | mark | tick => rfl

theorem CommandEffect.interval_eq (h : CommandEffect s op t) (hop : op ∉ [0x40#8]) : t.interval = s.interval := by
  cases h with
  | interval => exact absurd List.mem_cons_self hop
  | illegal => simp
  | quiet | payload | decode | clear | mark | tick => rfl

theorem CommandEffect.last_eq (h : CommandEffect s op t) (hop : op ∉ [0x41#8, 0x42#8]) : t.last = s.last := by
  cases h with
  | mark | tick => exact absurd (by decide) hop
  | illegal => simp
  | quiet | payload | decode | clear | interval => rfl

/-- The STATUS word with LEN is kept by every command word but those that write the payload, DEC.T, CLS, IV.TICK and the
illegal ones. -/
theorem CommandEffect.status_eq (h : CommandEffect s op t) (hp : op ∉ payloadWriters)
    (hop : op ∉ [0x11#8, 0x39#8, 0x42#8]) (hill : op ∉ unassignedOpcodes) : t.status = s.status := by
  cases h with
  | payload hw => exact absurd hw hp
  | decode | clear | tick => exact absurd (by decide) hop
  | illegal hw => exact absurd (mem_unassignedOpcodes hw) hill
  | quiet | interval | mark => rfl

end frame

/-! ### What a read reads -/

/-- The data of a read command, by its opcode (41_payload.md R71, 43_status.md R83 to R85, 42_interval.md R78, R79);
for any other opcode no claim is made. -/
def readDatum (op : Byte) (s : State) : Word :=
  match op with
  | 0x28#8 => s.payload.lookup 0 ++ s.payload.lookup 1 ++ s.payload.lookup 2 ++ s.payload.lookup 3
  | 0x30#8 => s.decCenti
  | 0x31#8 => s.decF32
  | 0x38#8 => s.status
  | 0x48#8 => s.interval
  | 0x49#8 => s.last
  | _ => 0#32

/-- What a read reads is in the registers: neither the responses already given nor the host's further moves matter. -/
theorem readDatum_congr_registers (op : Byte) (s : State) (ms : List HostMove) (rs : List ResponseWord) :
    readDatum op { s with moves := ms, responses := rs } = readDatum op s := by
  unfold readDatum
  split <;> rfl

theorem readDatum_appendResponse (op : Byte) (r : ResponseWord) (s : State) :
    readDatum op (s.appendResponse r) = readDatum op s :=
  readDatum_congr_registers op s s.moves _

theorem readDatum_setMoves (op : Byte) (ms : List HostMove) (s : State) :
    readDatum op (s.setMoves ms) = readDatum op s :=
  readDatum_congr_registers op s ms s.responses

/-- The six commands of 20_memory.md R39 are the reads that `writersOfRead` lists. -/
theorem opcode_mem_reads {i : Instr} {x : Word} (h : i ∈ [.rdp x, .rdc x, .rdf x, .rds x, .ivRdI x, .ivRdL x]) :
    i.opcode ∈ writersOfRead.map Prod.fst := by
  simp only [List.mem_cons, List.not_mem_nil, or_false] at h
  rcases h with rfl | rfl | rfl | rfl | rfl | rfl <;> simp [writersOfRead, Instr.opcode]

/-- A read appends what it reads as an OK response and changes nothing else. -/
theorem exec_read {i : Instr} (h : i.opcode ∈ writersOfRead.map Prod.fst) (s : State) :
    exec i s = .next (s.appendResponse (responseWord .ok (readDatum i.opcode s))) := by
  cases i with
  | rdp x => exact execRdp_eq x s
  | rdc | rdf | rds | ivRdI | ivRdL => rfl
  | nop | encT | decT | ldp0 | ldp1 | ldp2 | ldp3 | ldp4 | cls | ivSetI | ivSetL | ivTick =>
    simp [writersOfRead, Instr.opcode] at h

/-- A read gives the same response in two states where what it reads is the same. -/
theorem sameResponse_of_readDatum_eq {i : Instr} (h : i.opcode ∈ writersOfRead.map Prod.fst) {s t : State}
    (heq : readDatum i.opcode s = readDatum i.opcode t) : SameResponse i s t :=
  ⟨_, exec_read h s, heq ▸ exec_read h t⟩

/-! ### What a read reads stays until it is written -/

/-- A command word that is no writer of what a read reads leaves it as it was. -/
theorem CommandEffect.readDatum_eq {s t : State} {op rd : Byte} {ops : List Byte} (h : CommandEffect s op t)
    (hrd : (rd, ops) ∈ writersOfRead) (hop : op ∉ ops) : readDatum rd t = readDatum rd s := by
  simp only [writersOfRead, List.mem_cons, List.not_mem_nil, or_false, Prod.mk.injEq] at hrd
  rcases hrd with ⟨rfl, rfl⟩ | ⟨rfl, rfl⟩ | ⟨rfl, rfl⟩ | ⟨rfl, rfl⟩ | ⟨rfl, rfl⟩ | ⟨rfl, rfl⟩
  · simp only [readDatum, h.payload_eq hop]
  · exact h.decCenti_eq hop
  · exact h.decF32_eq hop
  · refine h.status_eq (fun hw => hop ?_) (fun hw => hop ?_) (fun hw => hop ?_)
    · simp [payloadWriters] at hw ⊢; tauto
    · simp at hw ⊢; tauto
    · exact List.mem_append_right _ hw
  · exact h.interval_eq hop
  · exact h.last_eq hop

/-- A run of command words, none of which writes what a read reads, completes and leaves it as it was. -/
theorem steps_readDatum_eq {rd : Byte} {ops : List Byte} (hrd : (rd, ops) ∈ writersOfRead) (ws : List CommandWord)
    (hws : ∀ w ∈ ws, opField w ∉ ops) (s : State) (hs : s.moves = ws.map .command) :
    ∃ t, steps ws.length s = .next t ∧ readDatum rd t = readDatum rd s := by
  induction ws generalizing s with
  | nil => exact ⟨s, rfl, rfl⟩
  | cons w ws ih =>
    obtain ⟨u, hu, heff⟩ := runCommand_commandEffect w (s.setMoves (ws.map .command))
    have hstep : step s = .next u := (step_of_command hs).trans hu
    obtain ⟨t, ht, heq⟩ := ih (fun v hv => hws v (List.mem_cons_of_mem w hv)) u heff.moves_eq
    refine ⟨t, ?_, ?_⟩
    · rw [List.length_cons, steps, hstep]
      exact ht
    · rw [heq, heff.readDatum_eq hrd (hws w List.mem_cons_self), readDatum_setMoves]

theorem runMoves_readDatum_eq {rd : Byte} {ops : List Byte} (hrd : (rd, ops) ∈ writersOfRead) (ws : List CommandWord)
    (hws : ∀ w ∈ ws, opField w ∉ ops) (s : State) :
    ∃ t, runMoves (ws.map .command) s = .next t ∧ readDatum rd t = readDatum rd s := by
  obtain ⟨t, ht, heq⟩ := steps_readDatum_eq hrd ws hws (s.setMoves (ws.map .command)) rfl
  refine ⟨t, ?_, heq.trans (readDatum_setMoves rd _ s)⟩
  rw [runMoves, List.length_map]
  exact ht

/-! ### The clauses of R39 -/

/-- A read repeated at once gives the same response again, and nothing else. -/
theorem exec_read_twice {i : Instr} (h : i.opcode ∈ writersOfRead.map Prod.fst) (s : State) :
    ∃ r : ResponseWord, exec i s = .next (s.appendResponse r) ∧
      exec i (s.appendResponse r) = .next ((s.appendResponse r).appendResponse r) := by
  refine ⟨_, exec_read h s, ?_⟩
  rw [exec_read h (s.appendResponse _), readDatum_appendResponse]

/-- A read repeated after command words that write nothing it reads gives the same response. -/
theorem exec_read_after_nonwriters {i : Instr} {ops : List Byte} (h : (i.opcode, ops) ∈ writersOfRead)
    (ws : List CommandWord) (hws : ∀ w ∈ ws, opField w ∉ ops) (s : State) :
    ∃ (r : ResponseWord) (t : State), exec i s = .next (s.appendResponse r) ∧
      runMoves (ws.map .command) (s.appendResponse r) = .next t ∧ exec i t = .next (t.appendResponse r) := by
  have hread : i.opcode ∈ writersOfRead.map Prod.fst := List.mem_map_of_mem h
  obtain ⟨t, ht, heq⟩ :=
    runMoves_readDatum_eq h ws hws (s.appendResponse (responseWord .ok (readDatum i.opcode s)))
  refine ⟨_, t, exec_read hread s, ht, ?_⟩
  rw [exec_read hread t, heq, readDatum_appendResponse]

/-- RDP reads the payload by its four addresses alone. -/
theorem readDatum_rdp_congr {s t : State} (h : ∀ a, a < 4 → readByte a s = readByte a t) :
    readDatum 0x28#8 s = readDatum 0x28#8 t := by
  have hbyte : ∀ a, a < 4 → s.payload.lookup a = t.payload.lookup a := by
    intro a ha
    have := h a ha
    rwa [readByte_of_lt ha, readByte_of_lt ha, Except.ok.injEq] at this
  simp only [readDatum, hbyte 0 (by decide), hbyte 1 (by decide), hbyte 2 (by decide), hbyte 3 (by decide)]

/-- DEC.T keeps the payload and leaves DVALID set where LEN = 4, TRUNC set elsewhere (40_codec.md R61). -/
theorem exec_decT_payload (x : Word) (s : State) :
    ∃ t, exec (.decT x) s = .next t ∧ t.payload = s.payload ∧ (t.dvalid = true ∨ t.trunc = true) := by
  by_cases h : s.len = 4#3
  · exact ⟨_, execDecT_of_len_eq x h, by simp, .inl (by simp)⟩
  · exact ⟨_, execDecT_of_len_ne x h, by simp, .inr (by simp)⟩

/-- A tick that fires moves LAST to `now` (42_interval.md R77). -/
theorem execIvTick_of_lt {x : Word} {s : State} (h : s.interval.toNat < (elapsed x s.last).toNat) :
    execIvTick x s = respond .ok 0x00000001#32 ((s.setLast x).setFire true) := if_pos h

/-- Settles O32: each read by `exec_read`, the words between two reads by the frame of their opcodes, and a tick 1 ms
after LAST = 0 with INTERVAL = 0 as the one that moves LAST. -/
theorem readsHaveNoSideEffects : Obligations.ReadsHaveNoSideEffects := by
  refine ⟨?repeated, ?untilWritten, ?readsOnly, exec_decT_payload, ?tick⟩
  case repeated =>
    intro i x s hi
    exact exec_read_twice (opcode_mem_reads hi) s
  case untilWritten =>
    intro i ops ws s hi hws
    exact exec_read_after_nonwriters hi ws hws s
  case readsOnly =>
    intro x s t
    refine ⟨fun h => ?_, fun h => ?_, fun h => ?_, fun hsat hnan htrunc hill hfire hdvalid hlen => ?_, fun h => ?_,
      fun h => ?_⟩
    · exact sameResponse_of_readDatum_eq (opcode_mem_reads (x := x) (by simp)) (readDatum_rdp_congr h)
    · exact sameResponse_of_readDatum_eq (opcode_mem_reads (x := x) (by simp)) h
    · exact sameResponse_of_readDatum_eq (opcode_mem_reads (x := x) (by simp)) h
    · have hstatus : s.status = t.status := by
        simp only [State.status, hsat, hnan, htrunc, hill, hfire, hdvalid, hlen]
      exact sameResponse_of_readDatum_eq (opcode_mem_reads (x := x) (by simp)) hstatus
    · exact sameResponse_of_readDatum_eq (opcode_mem_reads (x := x) (by simp)) h
    · exact sameResponse_of_readDatum_eq (opcode_mem_reads (x := x) (by simp)) h
  case tick =>
    exact ⟨1#32, State.resetWith 0#32, _, execIvTick_of_lt (by decide), by decide⟩

end Sys2Proof.Proofs

/-! ## Encoding: the command word, the opcode alone, and the operand bits nothing reads (30_encoding.md R44 to R51) -/

namespace Sys2Proof.Proofs

open Sys2Proof.Machine

/-! ### The two fields of a command word -/

theorem getLsbD_commandWord_of_lt (op : Byte) (x : Word) {k : Nat} (h : k < 32) :
    (commandWord op x).getLsbD k = x.getLsbD k := by
  rw [commandWord, BitVec.getLsbD_append, if_pos h]

theorem getLsbD_commandWord_add (op : Byte) (x : Word) (k : Nat) :
    (commandWord op x).getLsbD (32 + k) = op.getLsbD k := by
  rw [commandWord, BitVec.getLsbD_append, if_neg (Nat.not_lt.mpr (Nat.le_add_right 32 k)), Nat.add_sub_cancel_left]

/-- Settles O3: each bit by the half of the concatenation it lies in, each field by reading that half back. -/
theorem commandWordIsOpThenOperand : Obligations.CommandWordIsOpThenOperand := fun op x =>
  ⟨fun _ hk => getLsbD_commandWord_of_lt op x hk, fun k _ => getLsbD_commandWord_add op x k,
    opField_commandWord op x, operandField_commandWord op x⟩

/-! ### Decoding by the opcode alone -/

/-- Settles O2: the command form of an assigned opcode is the choice, operand by operand, of `decodeFields_of_mem`. -/
theorem opcodeAloneSelectsTheCommand : Obligations.OpcodeAloneSelectsTheCommand := by
  intro op
  refine ⟨fun hop => ?assigned, fun hop x => ?unassigned⟩
  case assigned =>
    choose f hf using decodeFields_of_mem hop
    refine ⟨f, fun x => ?_⟩
    rw [decode_commandWord]
    exact hf x
  case unassigned =>
    rw [decode_commandWord, decodeFields_of_not_mem hop]

/-! ### The illegal opcodes -/

/-- The ranges of 30_encoding.md R51 are the complement of the opcode map of R47. -/
theorem isUnassigned_iff_not_mem (op : Byte) : isUnassigned op = true ↔ op ∉ assignedOpcodes := by
  have hlt : op.toNat < 256 := op.isLt
  simp only [isUnassigned, unassignedRanges, assignedOpcodes, List.any_cons, List.any_nil, Bool.or_false,
    Bool.or_eq_true, Bool.and_eq_true, decide_eq_true_eq, List.mem_cons, List.not_mem_nil, or_false,
    ← BitVec.toNat_inj, BitVec.reduceToNat]
  omega

/-- A number written as an opcode is assigned when it is the number of an assigned opcode. -/
theorem ofNat_mem_assignedOpcodes {n : Nat} (hn : n < 256) :
    BitVec.ofNat 8 n ∈ assignedOpcodes ↔ n ∈ assignedOpcodes.map BitVec.toNat := by
  rw [List.mem_map]
  constructor
  · intro h
    exact ⟨_, h, by rw [BitVec.toNat_ofNat, Nat.mod_eq_of_lt hn]⟩
  · rintro ⟨op, hop, rfl⟩
    rwa [BitVec.ofNat_toNat, BitVec.setWidth_eq]

/-- Of the 256 opcodes, all but the 18 assigned ones are illegal. -/
theorem length_filter_isUnassigned :
    ((List.range 256).filter fun n => isUnassigned (BitVec.ofNat 8 n)).length = 238 := by
  have hcompl : ((List.range 256).filter fun n => isUnassigned (BitVec.ofNat 8 n)).toFinset =
      Finset.range 256 \ (assignedOpcodes.map BitVec.toNat).toFinset := by
    ext n
    rw [List.mem_toFinset, List.mem_filter, List.mem_range, Finset.mem_sdiff, Finset.mem_range, List.mem_toFinset,
      isUnassigned_iff_not_mem]
    exact and_congr_right fun hn => not_congr (ofNat_mem_assignedOpcodes hn)
  have hsub : (assignedOpcodes.map BitVec.toNat).toFinset ⊆ Finset.range 256 := by decide
  have hcard : (assignedOpcodes.map BitVec.toNat).toFinset.card = 18 := by decide
  rw [← List.toFinset_card_of_nodup (List.nodup_range.filter _), hcompl, Finset.card_sdiff_of_subset hsub, hcard,
    Finset.card_range]

/-- The response `4/000000OO` of an illegal opcode (60_exceptions.md R93). -/
theorem responseWord_errIllegal (op : Byte) :
    responseWord .errIllegal (op.setWidth 32) = 4#3 ++ (0x000000#24 ++ op) := by
  have hdata : op.setWidth 32 = 0x000000#24 ++ op := by
    apply BitVec.eq_of_toNat_eq
    rw [BitVec.toNat_setWidth_of_le (by decide), BitVec.toNat_append]
    simp
  rw [responseWord, hdata]
  rfl

/-- Settles O7: the ranges against the opcode map, and the step by the rule of ERR_ILLEGAL. -/
theorem illegalOpcodeOnlySetsIll : Obligations.IllegalOpcodeOnlySetsIll := by
  refine ⟨isUnassigned_iff_not_mem, length_filter_isUnassigned, fun s op x rest hop hs => ?_⟩
  have hfield : opField (commandWord op x) ∉ assignedOpcodes := by
    rw [opField_commandWord]
    exact (isUnassigned_iff_not_mem op).mp hop
  rw [step_of_command hs, runCommand_of_not_mem hfield, opField_commandWord, execIllegal_eq, responseWord_errIllegal]
  rfl

/-! ### Operand bits that are not read -/

/-- Operands that agree on a field agree on every field inside it. -/
theorem extractLsb'_congr_of_within {w a n b m : Nat} {x y : BitVec w} (h : x.extractLsb' a n = y.extractLsb' a n)
    (hlo : a ≤ b) (hhi : b + m ≤ a + n) : x.extractLsb' b m = y.extractLsb' b m := by
  ext k hk
  have hbit := congrArg (BitVec.getLsbD · (b - a + k)) h
  have hidx : a + (b - a + k) = b + k := by omega
  simpa [hidx, show b - a + k < n by omega] using hbit

/-- LDP.n reads the top n bytes of its operand and nothing below them (30_encoding.md R48). -/
theorem loadBytes_congr {n : Nat} {x y : Word} (hn : n ≤ 4)
    (h : x.extractLsb' (32 - 8 * n) (8 * n) = y.extractLsb' (32 - 8 * n) (8 * n)) :
    loadBytes n x = loadBytes n y := by
  refine List.map_congr_left fun i _ => ?_
  split
  · exact extractLsb'_congr_of_within h (by omega) (by omega)
  · rfl

theorem loadPayload_congr {n : Nat} {x y : Word} (hn : n ≤ 4)
    (h : x.extractLsb' (32 - 8 * n) (8 * n) = y.extractLsb' (32 - 8 * n) (8 * n)) (s : State) :
    loadPayload n x s = loadPayload n y s := by
  rw [loadPayload, loadPayload, loadBytes_congr hn h]

theorem execCls_congr {x y : Word} (h : clearMask x = clearMask y) (s : State) : execCls x s = execCls y s := by
  rw [execCls, execCls, h]

/-- Settles O8: eight of the nine commands have a meaning in which the operand does not occur, LDP.0 reads none of its
bytes, LDP.1 to LDP.3 read the top bytes, CLS reads its mask, and decoding an assigned opcode asks nothing of it. -/
theorem ignoredOperandBitsChangeNothing : Obligations.IgnoredOperandBitsChangeNothing := by
  intro x y s
  refine ⟨rfl, rfl, ?ldp0, rfl, rfl, rfl, rfl, rfl, rfl, fun h => ?ldp1, fun h => ?ldp2, fun h => ?ldp3,
    fun h => ?cls, fun op hop => ?legal⟩
  case ldp0 => exact loadPayload_congr (n := 0) (by decide) (Subsingleton.elim (α := BitVec 0) _ _) s
  case ldp1 => exact loadPayload_congr (n := 1) (by decide) h s
  case ldp2 => exact loadPayload_congr (n := 2) (by decide) h s
  case ldp3 => exact loadPayload_congr (n := 3) (by decide) h s
  case cls => exact execCls_congr h s
  case legal =>
    obtain ⟨i, hi, -, -⟩ := decodeFields_of_mem hop x
    exact ⟨i, (decode_commandWord op x).trans hi⟩

end Sys2Proof.Proofs

/-! ## Codec commands: DEC.T, and the two units apart (40_codec.md R61, R69) -/

namespace Sys2Proof.Proofs

open Sys2Proof.Machine

/-! ### DEC.T -/

/-- The data of ERR_TRUNC, expected length 4 over the actual length, as a number (60_exceptions.md R88). -/
theorem truncInfo_eq_ofNat (len : BitVec 3) : truncInfo len = BitVec.ofNat 32 (4 * 256 + len.toNat) := by
  revert len
  decide

/-- Whatever DEC.T did, a second DEC.T only responds the same again: the registers it reads are not written by it, and
those it writes already hold the values (40_codec.md R61). -/
theorem execDecT_again (x y : Word) {s t : State} (h : execDecT x s = .next t) :
    ∃ (u : State) (r : ResponseWord), execDecT y t = .next u ∧ t.responses = s.responses ++ [r] ∧
      u = { t with responses := t.responses ++ [r] } := by
  by_cases hlen : s.len = 4#3
  · rw [execDecT_of_len_eq x hlen] at h
    cases h
    exact ⟨_, _, execDecT_of_len_eq y hlen, rfl, rfl⟩
  · rw [execDecT_of_len_ne x hlen] at h
    cases h
    exact ⟨_, _, execDecT_of_len_ne y hlen, rfl, rfl⟩

/-- Settles O23: the two branches by `execDecT_of_len_eq` and `execDecT_of_len_ne`, the corner values by evaluation. -/
theorem decTDecodesOrReportsTruncation : Obligations.DecTDecodesOrReportsTruncation := by
  refine ⟨fun x s => ⟨?word, ?decodes, ?truncated⟩, fun x y s t => execDecT_again x y, ?minimum, ?maximum, ?zero,
    ?belowZero⟩
  case word => exact decode_commandWord 0x11#8 x
  case decodes => exact execDecT_of_len_eq x
  case truncated =>
    intro hlen
    rw [← truncInfo_eq_ofNat]
    exact execDecT_of_len_ne x hlen
  case minimum | maximum | zero | belowZero => decide

/-! ### Overwriting one unit's registers -/

/-- Apply a function to the next state of an outcome; a stop stays as it is. -/
def mapNext (f : State → State) : Host.Outcome State Fault Refusal → Host.Outcome State Fault Refusal
  | .next s => .next (f s)
  | .fault r => .fault r
  | .refused r => .refused r

/-- The state with the comparator's registers INTERVAL, LAST and FIRE overwritten. -/
def withComparator (iv la : Word) (fi : Bool) (s : State) : State :=
  { s with interval := iv, last := la, fire := fi }

/-- The state with the codec's registers overwritten: the payload with LEN, the decode registers with DVALID, and the
three sticky bits of ENC.T and DEC.T. -/
def withCodec (p : Memory) (n : BitVec 3) (dc df : Word) (sa na tr dv : Bool) (s : State) : State :=
  { s with payload := p, len := n, decCenti := dc, decF32 := df, sat := sa, nan := na, trunc := tr, dvalid := dv }

section codec
variable (iv la : Word) (fi : Bool) (x : Word) (s : State)

theorem execEncT_withComparator :
    execEncT x (withComparator iv la fi s) = mapNext (withComparator iv la fi) (execEncT x s) := by
  rw [execEncT_eq, execEncT_eq]
  cases (encRaw x).2 with
  | ok | sat | nan => rfl

theorem execDecT_withComparator :
    execDecT x (withComparator iv la fi s) = mapNext (withComparator iv la fi) (execDecT x s) := by
  by_cases hlen : s.len = 4#3
  · rw [execDecT_of_len_eq x hlen]
    exact execDecT_of_len_eq x hlen
  · rw [execDecT_of_len_ne x hlen]
    exact execDecT_of_len_ne x hlen

theorem loadPayload_withComparator (n : Nat) :
    loadPayload n x (withComparator iv la fi s) = mapNext (withComparator iv la fi) (loadPayload n x s) := by
  rw [loadPayload_eq, loadPayload_eq]
  rfl

theorem execRdp_withComparator :
    execRdp x (withComparator iv la fi s) = mapNext (withComparator iv la fi) (execRdp x s) := by
  rw [execRdp_eq, execRdp_eq]
  rfl

end codec

/-- A codec command neither reads nor writes the comparator's registers (40_codec.md R69). -/
theorem exec_withComparator {i : Instr}
    (h : i.opcode ∈ [0x10#8, 0x11#8, 0x20#8, 0x21#8, 0x22#8, 0x23#8, 0x24#8, 0x28#8, 0x30#8, 0x31#8]) (iv la : Word)
    (fi : Bool) (s : State) :
    exec i (withComparator iv la fi s) = mapNext (withComparator iv la fi) (exec i s) := by
  cases i with
  | encT x => exact execEncT_withComparator iv la fi x s
  | decT x => exact execDecT_withComparator iv la fi x s
  | ldp0 x => exact loadPayload_withComparator iv la fi x s 0
  | ldp1 x => exact loadPayload_withComparator iv la fi x s 1
  | ldp2 x => exact loadPayload_withComparator iv la fi x s 2
  | ldp3 x => exact loadPayload_withComparator iv la fi x s 3
  | ldp4 x => exact loadPayload_withComparator iv la fi x s 4
  | rdp x => exact execRdp_withComparator iv la fi x s
  | rdc | rdf => rfl
  | nop | rds | cls | ivSetI | ivSetL | ivTick | ivRdI | ivRdL => simp [Instr.opcode] at h

/-- A tick that does not fire only clears FIRE (42_interval.md R77). -/
theorem execIvTick_of_not_lt {x : Word} {s : State} (h : ¬ s.interval.toNat < (elapsed x s.last).toNat) :
    execIvTick x s = respond .ok 0x00000000#32 (s.setFire false) := if_neg h

theorem execIvTick_withCodec (p : Memory) (n : BitVec 3) (dc df : Word) (sa na tr dv : Bool) (x : Word) (s : State) :
    execIvTick x (withCodec p n dc df sa na tr dv s) =
      mapNext (withCodec p n dc df sa na tr dv) (execIvTick x s) := by
  by_cases hlt : s.interval.toNat < (elapsed x s.last).toNat
  · rw [execIvTick_of_lt hlt]
    exact execIvTick_of_lt hlt
  · rw [execIvTick_of_not_lt hlt]
    exact execIvTick_of_not_lt hlt

/-- A comparator command neither reads nor writes the codec's registers (40_codec.md R69). -/
theorem exec_withCodec {i : Instr} (h : i.opcode ∈ [0x40#8, 0x41#8, 0x42#8, 0x48#8, 0x49#8]) (p : Memory)
    (n : BitVec 3) (dc df : Word) (sa na tr dv : Bool) (s : State) :
    exec i (withCodec p n dc df sa na tr dv s) = mapNext (withCodec p n dc df sa na tr dv) (exec i s) := by
  cases i with
  | ivTick x => exact execIvTick_withCodec p n dc df sa na tr dv x s
  | ivSetI | ivSetL | ivRdI | ivRdL => rfl
  | nop | encT | decT | ldp0 | ldp1 | ldp2 | ldp3 | ldp4 | rdp | rdc | rdf | rds | cls => simp [Instr.opcode] at h

/-- Settles O33: overwriting the other unit's registers passes through the command, by `exec_withComparator` and
`exec_withCodec`. -/
theorem theTwoUnitsAreIndependent : Obligations.TheTwoUnitsAreIndependent := by
  refine ⟨?codec, ?comparator⟩
  case codec =>
    intro i s t iv la fi hi ht
    exact (exec_withComparator hi iv la fi s).trans (congrArg (mapNext _) ht)
  case comparator =>
    intro i s t p n dc df sa na tr dv hi ht
    exact (exec_withCodec hi p n dc df sa na tr dv s).trans (congrArg (mapNext _) ht)

end Sys2Proof.Proofs

/-! ## Encoding: the order of binary32 patterns, rounding half away from zero, and ENC.T (40_codec.md R58, R59) -/

namespace Sys2Proof.Proofs

open Sys2Proof.Machine

/-! ### A sign and a magnitude -/

@[simp] theorem signedInt_false (k : Nat) : signedInt false k = k := rfl

@[simp] theorem signedInt_true (k : Nat) : signedInt true k = -(k : Int) := rfl

theorem natAbs_signedInt (negative : Bool) (k : Nat) : (signedInt negative k).natAbs = k := by
  cases negative <;> simp

theorem neg_le_signedInt (negative : Bool) (k : Nat) : -(k : Int) ≤ signedInt negative k := by
  cases negative <;> simp

theorem signedInt_le (negative : Bool) (k : Nat) : signedInt negative k ≤ k := by
  cases negative <;> simp

/-! ### The magnitude of a pattern

The low 31 bits of a pattern, read as a number `k`, order the binary32 values by magnitude. -/

/-- The magnitude, in units of 2^(-149), of the finite patterns with low 31 bits `k`. -/
def ulpCount (k : Nat) : Nat :=
  if k < 2 ^ 23 then k else (2 ^ 23 + k % 2 ^ 23) * 2 ^ (k / 2 ^ 23 - 1)

/-- The low 31 bits of a pattern: exponent and fraction. -/
def magnitudeField (b : Word) : Nat := (b.extractLsb' 0 31).toNat

theorem magnitudeField_eq_mod (b : Word) : magnitudeField b = b.toNat % 2 ^ 31 := by
  simp [magnitudeField]

theorem magnitudeField_lt (b : Word) : magnitudeField b < 2 ^ 31 := (b.extractLsb' 0 31).isLt

theorem exponentField_eq (b : Word) : (b.extractLsb' 23 8).toNat = magnitudeField b / 2 ^ 23 := by
  have := b.isLt
  simp only [magnitudeField_eq_mod, BitVec.extractLsb'_toNat, Nat.shiftRight_eq_div_pow]
  omega

theorem fractionField_eq (b : Word) : (b.extractLsb' 0 23).toNat = magnitudeField b % 2 ^ 23 := by
  simp only [magnitudeField_eq_mod, BitVec.extractLsb'_toNat, Nat.shiftRight_zero]
  omega

/-- Below the infinities a pattern's value is its sign and `ulpCount` of its low 31 bits. -/
theorem real_of_magnitudeField_lt {b : Word} (h : magnitudeField b < 0x7F800000) :
    real b = .finite (signedInt (b.getLsbD 31) (ulpCount (magnitudeField b))) := by
  by_cases hsub : magnitudeField b < 2 ^ 23
  · rw [real_of_exponent_zero (by rw [exponentField_eq]; omega), fractionField_eq, ulpCount, if_pos hsub,
      Nat.mod_eq_of_lt hsub]
  · rw [real_of_normal (by rw [exponentField_eq]; omega) (by rw [exponentField_eq]; omega), fractionField_eq,
      exponentField_eq, ulpCount, if_neg hsub]

/-- From 0x7F800000 on there is no finite value. -/
theorem magnitudeField_lt_of_finite {b : Word} {n : Int} (h : real b = .finite n) : magnitudeField b < 0x7F800000 := by
  by_contra hge
  have hlt := magnitudeField_lt b
  have he : (b.extractLsb' 23 8).toNat = 255 := by rw [exponentField_eq]; omega
  by_cases hm : (b.extractLsb' 0 23).toNat = 0
  · rw [real_of_infinity he hm] at h
    split at h <;> cases h
  · rw [real_of_nan he hm] at h
    cases h

theorem getLsbD_31_eq (b : Word) : b.getLsbD 31 = decide (2 ^ 31 ≤ b.toNat) := by
  rw [← BitVec.msb_eq_getLsbD_last, BitVec.msb_eq_decide]

/-- The positive patterns, as numbers, up to the infinity. -/
theorem real_of_toNat_lt {b : Word} (h : b.toNat < 0x7F800000) : real b = .finite (ulpCount b.toNat) := by
  have hk : magnitudeField b = b.toNat := by rw [magnitudeField_eq_mod]; omega
  have hs : b.getLsbD 31 = false := by rw [getLsbD_31_eq, decide_eq_false]; omega
  rw [real_of_magnitudeField_lt (hk ▸ h), hk, hs, signedInt_false]

/-- The negative patterns, as numbers, up to the infinity. -/
theorem real_of_le_toNat {b : Word} (h : 2 ^ 31 ≤ b.toNat) (h' : b.toNat < 0xFF800000) :
    real b = .finite (-(ulpCount (b.toNat - 2 ^ 31) : Int)) := by
  have hk : magnitudeField b = b.toNat - 2 ^ 31 := by rw [magnitudeField_eq_mod]; omega
  rw [real_of_magnitudeField_lt (by omega), hk, getLsbD_31_eq, decide_eq_true h, signedInt_true]

theorem ulpCount_le_succ (k : Nat) : ulpCount k ≤ ulpCount (k + 1) := by
  by_cases hsub : k + 1 < 2 ^ 23
  · rw [ulpCount, ulpCount, if_pos hsub, if_pos (by omega)]
    omega
  by_cases hlast : k < 2 ^ 23
  · obtain rfl : k = 2 ^ 23 - 1 := by omega
    decide
  rw [ulpCount, ulpCount, if_neg hsub, if_neg hlast]
  by_cases hcarry : (k + 1) % 2 ^ 23 = 0
  · have hexp : (k + 1) / 2 ^ 23 - 1 = k / 2 ^ 23 - 1 + 1 := by omega
    rw [hcarry, hexp]
    calc (2 ^ 23 + k % 2 ^ 23) * 2 ^ (k / 2 ^ 23 - 1)
        ≤ (2 ^ 23 * 2) * 2 ^ (k / 2 ^ 23 - 1) := Nat.mul_le_mul_right _ (by omega)
      _ = (2 ^ 23 + 0) * 2 ^ (k / 2 ^ 23 - 1 + 1) := by ring
  · have hexp : (k + 1) / 2 ^ 23 = k / 2 ^ 23 := by omega
    rw [hexp]
    exact Nat.mul_le_mul_right _ (by omega)

theorem ulpCount_mono : Monotone ulpCount := monotone_nat_of_le_succ ulpCount_le_succ

/-! ### Rounding half away from zero -/

theorem roundHalfAway_of_nonneg {num : Int} (h : 0 ≤ num) (den : Nat) :
    roundHalfAway num den = (2 * num + den) / (2 * den) := by
  rw [roundHalfAway, decide_eq_false (not_lt.mpr h), signedInt_false]
  push_cast
  rw [abs_of_nonneg h]

theorem roundHalfAway_of_neg {num : Int} (h : num < 0) (den : Nat) :
    roundHalfAway num den = -((2 * -num + den) / (2 * den)) := by
  rw [roundHalfAway, decide_eq_true h, signedInt_true]
  push_cast
  rw [abs_of_neg h]

/-- `roundHalfAway` is non-decreasing in the numerator (40_codec.md R62). -/
theorem roundHalfAway_mono {den : Nat} (hden : 0 < den) : Monotone (roundHalfAway · den) := by
  intro a b hab
  have hden' : (0 : Int) < 2 * den := by omega
  show roundHalfAway a den ≤ roundHalfAway b den
  by_cases hb : b < 0
  · rw [roundHalfAway_of_neg hb, roundHalfAway_of_neg (hab.trans_lt hb)]
    exact neg_le_neg (Int.ediv_le_ediv hden' (by omega))
  · rw [roundHalfAway_of_nonneg (not_lt.mp hb)]
    by_cases ha : a < 0
    · rw [roundHalfAway_of_neg ha]
      have hna : 0 ≤ (2 * -a + (den : Int)) / (2 * den) := Int.ediv_nonneg (by omega) hden'.le
      have hnb : 0 ≤ (2 * b + (den : Int)) / (2 * den) := Int.ediv_nonneg (by omega) hden'.le
      omega
    · rw [roundHalfAway_of_nonneg (not_lt.mp ha)]
      exact Int.ediv_le_ediv hden' (by omega)

/-- The rounding on numerator and denominator is the rounding of the rational (00_scope.md R11). -/
theorem roundHalfAwayRat_div (num : Int) {den : Nat} (hden : 0 < den) :
    roundHalfAwayRat ((num : ℚ) / den) = roundHalfAway num den := by
  have hpos : (0 : ℚ) < den := by exact_mod_cast hden
  unfold roundHalfAwayRat
  by_cases hnum : num < 0
  · have hneg : ¬ (0 : ℚ) ≤ num / den := by
      rw [not_le]
      exact div_neg_of_neg_of_pos (by exact_mod_cast hnum) hpos
    have hfrac : (num : ℚ) / den - 1 / 2 = ((2 * num - den : ℤ) : ℚ) / ((2 * den : ℕ) : ℚ) := by
      push_cast
      field_simp
    rw [if_neg hneg, hfrac, Rat.ceil_intCast_div_natCast, roundHalfAway_of_neg hnum]
    push_cast
    ring_nf
  · have hnonneg : (0 : ℚ) ≤ num / den := div_nonneg (by exact_mod_cast not_lt.mp hnum) hpos.le
    have hfrac : (num : ℚ) / den + 1 / 2 = ((2 * num + den : ℤ) : ℚ) / ((2 * den : ℕ) : ℚ) := by
      push_cast
      field_simp
    rw [if_pos hnonneg, hfrac, Rat.floor_intCast_div_natCast, roundHalfAway_of_nonneg (not_lt.mp hnum)]
    push_cast
    rfl

/-! ### `encRaw` -/

/-- The rounded integer of `encRaw` for the finite value n * 2^(-149), before the clamp (40_codec.md R58). -/
def roundedRaw (n : Int) : Int :=
  roundHalfAway ((n + Config.tempOffsetC * ulpDenominator) * Config.tempScale) ulpDenominator

theorem encRaw_of_finite {b : Word} {n : Int} (h : real b = .finite n) : encRaw b = clampRaw (roundedRaw n) := by
  rw [encRaw, h]
  rfl

theorem encRaw_of_posInf {b : Word} (h : real b = .posInf) : encRaw b = (0xFFFF#16, .sat) := by
  rw [encRaw, h]

theorem encRaw_of_negInf {b : Word} (h : real b = .negInf) : encRaw b = (0x0000#16, .sat) := by
  rw [encRaw, h]

theorem encRaw_of_nan {b : Word} (h : real b = .nan) : encRaw b = (0x0000#16, .nan) := by
  rw [encRaw, h]

theorem two_zpow_eq_one_div : (2 : ℚ) ^ (-149 : ℤ) = 1 / (ulpDenominator : ℕ) := by norm_num [zpow_neg]

/-- (v + 200) * 100 over the denominator 2^149. -/
theorem ulpsToRat_scaled (n : Int) :
    (ulpsToRat n + 200) * 100 =
      (((n + Config.tempOffsetC * ulpDenominator) * Config.tempScale : ℤ) : ℚ) / (ulpDenominator : ℕ) := by
  have hne : ((ulpDenominator : ℕ) : ℚ) ≠ 0 := by positivity
  rw [ulpsToRat, two_zpow_eq_one_div]
  generalize ulpDenominator = d at hne ⊢
  push_cast
  field_simp

/-- The rounded integer is the rounding of the rational x = (v + 200) * 100 (40_codec.md R58). -/
theorem roundHalfAwayRat_scaled (n : Int) : roundHalfAwayRat ((ulpsToRat n + 200) * 100) = roundedRaw n := by
  rw [ulpsToRat_scaled, roundHalfAwayRat_div _ (by positivity), roundedRaw]

/-- Settles O44: a NaN and the infinities as the rule lists them, a finite value by `roundHalfAwayRat_scaled`. -/
theorem encRawIsTheExactFormula : Obligations.EncRawIsTheExactFormula := by
  refine ⟨fun b => ?formula, fun _ => rfl⟩
  case formula =>
    unfold encRawRat
    cases hb : real b with
    | finite n => rw [encRaw_of_finite hb, ← roundHalfAwayRat_scaled n]
    | posInf => exact encRaw_of_posInf hb
    | negInf => exact encRaw_of_negInf hb
    | nan => exact encRaw_of_nan hb


/-! ### The corner values of `encRaw`

`roundedRaw` is monotone, so a range of patterns is settled by its two ends. -/

theorem roundedRaw_mono : Monotone roundedRaw := by
  intro n m h
  exact roundHalfAway_mono (by positivity) (by dsimp only [Config.tempScale]; omega)

theorem clampRaw_of_neg {r : Int} (h : r < 0) : clampRaw r = (0x0000#16, .sat) := if_pos h

theorem clampRaw_of_gt {r : Int} (h : Config.rawMax < r) : clampRaw r = (0xFFFF#16, .sat) := by
  have hneg : ¬ r < 0 := by dsimp only [Config.rawMax] at h; omega
  rw [clampRaw, if_neg hneg, if_pos h]

/-- Between two values that round to `r` everything rounds to `r`. -/
theorem encRaw_of_between {b : Word} {n l u r : Int} (hb : real b = .finite n) (hl : l ≤ n) (hu : n ≤ u)
    (hlr : roundedRaw l = r) (hur : roundedRaw u = r) : encRaw b = clampRaw r := by
  have hr : roundedRaw n = r := le_antisymm (hur ▸ roundedRaw_mono hu) (hlr ▸ roundedRaw_mono hl)
  rw [encRaw_of_finite hb, hr]

/-- From −200 down to the largest binary32 below −200.005: raw 0 with OK (40_codec.md R59). -/
theorem encRaw_low_ok {b : Word} (hl : 0xC3480000 ≤ b.toNat) (hu : b.toNat ≤ 0xC3480147) :
    encRaw b = (0x0000#16, .ok) :=
  encRaw_of_between (l := -(ulpCount 0x43480147 : Int)) (u := -(ulpCount 0x43480000 : Int)) (r := 0)
    (real_of_le_toNat (by omega) (by omega)) (neg_le_neg (Int.ofNat_le.mpr (ulpCount_mono (by omega))))
    (neg_le_neg (Int.ofNat_le.mpr (ulpCount_mono (by omega)))) (by decide) (by decide)

/-- From 0xC3480148 down to −∞: raw 0, saturated. -/
theorem encRaw_low_sat {b : Word} (hl : 0xC3480148 ≤ b.toNat) (hu : b.toNat ≤ 0xFF800000) :
    encRaw b = (0x0000#16, .sat) := by
  by_cases hinf : b.toNat = 0xFF800000
  · obtain rfl : b = 0xFF800000#32 := BitVec.eq_of_toNat_eq hinf
    exact encRaw_of_negInf (by decide)
  · have hle : -(ulpCount (b.toNat - 2 ^ 31) : Int) ≤ -(ulpCount 0x43480148 : Int) :=
      neg_le_neg (Int.ofNat_le.mpr (ulpCount_mono (by omega)))
    rw [encRaw_of_finite (real_of_le_toNat (by omega) (by omega))]
    exact clampRaw_of_neg ((roundedRaw_mono hle).trans_lt (by decide))

/-- From 455.35 as binary32 up to the last pattern below 455.355: raw 65535 with OK. -/
theorem encRaw_high_ok {b : Word} (hl : 0x43E3ACCD ≤ b.toNat) (hu : b.toNat ≤ 0x43E3AD70) :
    encRaw b = (0xFFFF#16, .ok) :=
  encRaw_of_between (l := ulpCount 0x43E3ACCD) (u := ulpCount 0x43E3AD70) (r := 65535)
    (real_of_toNat_lt (by omega)) (Int.ofNat_le.mpr (ulpCount_mono hl)) (Int.ofNat_le.mpr (ulpCount_mono hu))
    (by decide) (by decide)

/-- From 0x43E3AD71 up to +∞: raw 65535, saturated. -/
theorem encRaw_high_sat {b : Word} (hl : 0x43E3AD71 ≤ b.toNat) (hu : b.toNat ≤ 0x7F800000) :
    encRaw b = (0xFFFF#16, .sat) := by
  by_cases hinf : b.toNat = 0x7F800000
  · obtain rfl : b = 0x7F800000#32 := BitVec.eq_of_toNat_eq hinf
    exact encRaw_of_posInf (by decide)
  · have hle : (ulpCount 0x43E3AD71 : Int) ≤ ulpCount b.toNat := Int.ofNat_le.mpr (ulpCount_mono hl)
    rw [encRaw_of_finite (real_of_toNat_lt (by omega))]
    exact clampRaw_of_gt (lt_of_lt_of_le (by decide) (roundedRaw_mono hle))

/-- Zeros, subnormals and everything of magnitude below 0.005, of either sign: raw 20000 with OK. -/
theorem encRaw_tiny {b : Word} (h : magnitudeField b ≤ 0x3BA3D70A) : encRaw b = (20000#16, .ok) := by
  have hle : (ulpCount (magnitudeField b) : Int) ≤ ulpCount 0x3BA3D70A := Int.ofNat_le.mpr (ulpCount_mono h)
  exact encRaw_of_between (l := -(ulpCount 0x3BA3D70A : Int)) (u := ulpCount 0x3BA3D70A) (r := 20000)
    (real_of_magnitudeField_lt (by omega)) ((neg_le_neg hle).trans (neg_le_signedInt _ _))
    ((signedInt_le _ _).trans hle) (by decide) (by decide)

/-! ### ENC.T -/

/-- Zero extension as 16 zero bits in front. -/
theorem setWidth_32_eq_append (raw : Raw) : raw.setWidth 32 = 0x0000#16 ++ raw := by
  apply BitVec.eq_of_toNat_eq
  rw [BitVec.toNat_setWidth_of_le (by decide), BitVec.toNat_append]
  simp

/-- The bytes ENC.T leaves at the four addresses: those of `raw : 0x0000`, byte 0 most significant. -/
theorem readByte_encoded (x : Word) (s : State) {a : Nat} (h : a < 4) :
    readByte a (encoded x s) = .ok (((encRaw x).1 ++ 0x0000#16 : Word).extractLsb' (24 - 8 * a) 8) := by
  rw [readByte_of_lt h]
  exact congrArg Except.ok (lookup_storeAll_bytesOf s.payload _ a h)

/-- An address that does not exist reads alike in all states. -/
theorem readByte_of_le {a : Nat} (h : 4 ≤ a) (s t : State) : readByte a t = readByte a s := by
  rw [readByte, readByte, if_neg (not_lt.mpr h), if_neg (not_lt.mpr h)]

theorem readByte_congr {s t : State} (h : t.payload = s.payload) (a : Nat) : readByte a t = readByte a s := by
  rw [readByte, readByte, h]

/-- A field inside the high part of a concatenation. -/
theorem extractLsb'_append_add {n m : Nat} (x : BitVec n) (y : BitVec m) (k l : Nat) :
    (x ++ y).extractLsb' (m + k) l = x.extractLsb' k l := by
  ext i hi
  simp [BitVec.getLsbD_append, Nat.add_assoc]

/-- A field inside the low part of a concatenation. -/
theorem extractLsb'_append_of_le {n m : Nat} (x : BitVec n) (y : BitVec m) {k l : Nat} (h : k + l ≤ m) :
    (x ++ y).extractLsb' k l = y.extractLsb' k l := by
  ext i hi
  simp [BitVec.getLsbD_append, show k + i < m by omega]

/-- The state ENC.T answers: the payload of `encoded`, and by the outcome of `encRaw` the sticky bit and the response
(40_codec.md R59). -/
theorem execEncT_next (x : Word) (s : State) :
    ∃ t, execEncT x s = .next t ∧ t.payload = (encoded x s).payload ∧
      ((encRaw x).2 = .ok →
        t = (encoded x s).appendResponse (responseWord .ok ((encRaw x).1.setWidth 32))) ∧
      ((encRaw x).2 = .sat →
        t = ((encoded x s).setSticky .warnSat).appendResponse (responseWord .warnSat ((encRaw x).1.setWidth 32))) ∧
      ((encRaw x).2 = .nan →
        t = ((encoded x s).setSticky .warnNan).appendResponse (responseWord .warnNan ((encRaw x).1.setWidth 32))) := by
  rw [execEncT_eq]
  cases (encRaw x).2 with
  | ok => exact ⟨_, rfl, rfl, fun _ => rfl, nofun, nofun⟩
  | sat => exact ⟨_, rfl, rfl, nofun, fun _ => rfl, nofun⟩
  | nan => exact ⟨_, rfl, rfl, nofun, nofun, fun _ => rfl⟩

/-- Settles O22: the next state by `execEncT_next`, its bytes as those of `encoded`, and the corner values by the ends
of their ranges. -/
theorem encTEncodesAndReports : Obligations.EncTEncodesAndReports := by
  refine ⟨fun b s => ⟨decode_commandWord 0x10#8 b, ?command⟩, by decide, by decide, by decide, by decide,
    fun b => encRaw_low_ok, fun b => encRaw_low_sat, fun b => encRaw_high_ok, fun b => encRaw_high_sat,
    fun b => encRaw_tiny, fun b => encRaw_of_nan⟩
  case command =>
    obtain ⟨t, ht, hp, hok, hsat, hnan⟩ := execEncT_next b s
    have hbyte : ∀ a, a < 4 →
        readByte a t = .ok (((encRaw b).1 ++ 0x0000#16 : Word).extractLsb' (24 - 8 * a) 8) :=
      fun a ha => (readByte_congr hp a).trans (readByte_encoded b s ha)
    rw [setWidth_32_eq_append] at hok hsat hnan
    refine ⟨t, ht, ?byte0, ?byte1, ?byte2, ?byte3, fun a ha => readByte_of_le ha s t, fun h => ?ok, fun h => ?sat,
      fun h => ?nan⟩
    case byte0 => rw [hbyte 0 (by decide), ← extractLsb'_append_add _ 0x0000#16 8 8]
    case byte1 => rw [hbyte 1 (by decide), ← extractLsb'_append_add _ 0x0000#16 0 8]
    case byte2 => rw [hbyte 2 (by decide), extractLsb'_append_of_le _ _ (by decide)]; rfl
    case byte3 => rw [hbyte 3 (by decide), extractLsb'_append_of_le _ _ (by decide)]; rfl
    case ok => rw [hok h]; rfl
    case sat => rw [hsat h]; rfl
    case nan => rw [hnan h]; rfl

end Sys2Proof.Proofs

/-! ## Decoding: `rne32` gives the nearest binary32 (00_scope.md R11, 40_codec.md R60) -/

namespace Sys2Proof.Proofs

open Sys2Proof.Machine

/-! ### Rounding to the nearest integer, ties to even -/

theorem roundHalfEven_cases (num den : Nat) :
    (2 * (num % den) < den ∧ roundHalfEven num den = num / den) ∨
    (den < 2 * (num % den) ∧ roundHalfEven num den = num / den + 1) ∨
    (2 * (num % den) = den ∧ roundHalfEven num den = num / den + num / den % 2) := by
  unfold roundHalfEven
  split
  · exact .inl ⟨‹_›, rfl⟩
  · split
    · exact .inr (.inl ⟨‹_›, rfl⟩)
    · exact .inr (.inr ⟨by omega, rfl⟩)

/-- The distance of num from the multiples of den: the two around num, and a bound for those beyond. -/
theorem distance_cases (num : Nat) {den : Nat} (hden : 0 < den) (k : Int) :
    (k < (num / den : Nat) ∧ (den : Int) + (num % den : Nat) ≤ |k * den - num|) ∨
    (k = (num / den : Nat) ∧ |k * den - num| = (num % den : Nat)) ∨
    (k = (num / den : Nat) + 1 ∧ |k * den - num| = den - (num % den : Nat)) ∨
    ((num / den : Nat) + 1 < k ∧ 2 * (den : Int) - (num % den : Nat) ≤ |k * den - num|) := by
  have hlt : num % den < den := Nat.mod_lt num hden
  have hsub : k * den - num = (k - (num / den : Nat)) * den - (num % den : Nat) := by
    have hdiv : (num : Int) = (num / den : Nat) * den + (num % den : Nat) := by
      exact_mod_cast (Nat.div_add_mod' num den).symm
    linear_combination -hdiv
  rw [hsub]
  generalize num / den = q at *
  rcases lt_trichotomy k q with hk | hk | hk
  · have hmul : (k - q) * (den : Int) ≤ -1 * den := Int.mul_le_mul_of_nonneg_right (by omega) (by omega)
    exact .inl ⟨hk, by rw [abs_of_neg (by omega)]; omega⟩
  · refine .inr (.inl ⟨hk, ?_⟩)
    rw [hk, sub_self, zero_mul, zero_sub, abs_neg, abs_of_nonneg (by omega)]
  · rcases eq_or_lt_of_le (Int.add_one_le_of_lt hk) with hk | hk
    · refine .inr (.inr (.inl ⟨hk.symm, ?_⟩))
      rw [← hk, add_sub_cancel_left, one_mul, abs_of_nonneg (by omega)]
    · have hmul : 2 * (den : Int) ≤ (k - q) * den := Int.mul_le_mul_of_nonneg_right (by omega) (by omega)
      exact .inr (.inr (.inr ⟨hk, by rw [abs_of_nonneg (by omega)]; omega⟩))

/-- No integer is nearer to num / den than `roundHalfEven num den`, and where another is equally near, it is even. -/
theorem roundHalfEven_nearest (num : Nat) {den : Nat} (hden : 0 < den) (k : Int) :
    |(roundHalfEven num den : Int) * den - num| ≤ |k * den - num| ∧
      (k ≠ roundHalfEven num den →
        |(roundHalfEven num den : Int) * den - num| = |k * den - num| → roundHalfEven num den % 2 = 0) := by
  have hlt : num % den < den := Nat.mod_lt num hden
  have hround := distance_cases num hden (roundHalfEven num den)
  have hother := distance_cases num hden k
  rcases roundHalfEven_cases num den with ⟨hr, hq⟩ | ⟨hr, hq⟩ | ⟨hr, hq⟩ <;> omega

theorem roundHalfEven_le {num den a : Nat} (hden : 0 < den) (h : num ≤ a * den) : roundHalfEven num den ≤ a := by
  have hdiv : num / den ≤ a := Nat.div_le_of_le_mul (by rwa [Nat.mul_comm])
  rcases eq_or_lt_of_le hdiv with heq | hlt
  · have hmod : num % den = 0 := by
      have := Nat.div_add_mod' num den
      rw [heq] at this
      omega
    rw [roundHalfEven, hmod, if_pos (by omega)]
    exact hdiv
  · rcases roundHalfEven_cases num den with ⟨-, hq⟩ | ⟨-, hq⟩ | ⟨-, hq⟩ <;> omega

theorem le_roundHalfEven {num den a : Nat} (hden : 0 < den) (h : a * den ≤ num) : a ≤ roundHalfEven num den := by
  have hdiv : a ≤ num / den := (Nat.le_div_iff_mul_le hden).mpr h
  rcases roundHalfEven_cases num den with ⟨-, hq⟩ | ⟨-, hq⟩ | ⟨-, hq⟩ <;> omega

/-! ### The binade and the significand of `rneMagnitude` -/

/-- How far above 2^(-149) the last place of the rounded significand lies, in binary places. -/
def binade (num den : Nat) : Nat := Nat.log2 (num * ulpDenominator / den) - 23

/-- The rounded significand, in units of its last place. -/
def significand (num den : Nat) : Nat := roundHalfEven (num * ulpDenominator) (den * 2 ^ binade num den)

theorem rneMagnitude_eq_min (num den : Nat) :
    rneMagnitude num den = min (binade num den * 2 ^ 23 + significand num den) 0x7F800000 := rfl

/-- In a binade above the lowest the value has all 24 bits of the significand. -/
theorem two_pow_le_of_binade {num den : Nat} (hden : 0 < den) (h : binade num den ≠ 0) :
    2 ^ 23 * (den * 2 ^ binade num den) ≤ num * ulpDenominator := by
  have hlog : Nat.log2 (num * ulpDenominator / den) = 23 + binade num den := by unfold binade at *; omega
  have hne : num * ulpDenominator / den ≠ 0 := by
    intro h0
    rw [binade, h0] at h
    exact h (by decide)
  have hle := (Nat.le_log2 hne).mp hlog.ge
  rw [Nat.le_div_iff_mul_le hden, pow_add] at hle
  linarith

/-- The value lies below the end of its binade. -/
theorem lt_two_pow_of_binade (num : Nat) {den : Nat} (hden : 0 < den) :
    num * ulpDenominator < 2 ^ 24 * (den * 2 ^ binade num den) := by
  have hlog : Nat.log2 (num * ulpDenominator / den) < 24 + binade num den := by unfold binade; omega
  have hlt : num * ulpDenominator / den < 2 ^ (24 + binade num den) :=
    Nat.lt_log2_self.trans_le (Nat.pow_le_pow_right (by decide) hlog)
  rw [Nat.div_lt_iff_lt_mul hden, pow_add] at hlt
  linarith

theorem significand_le (num : Nat) {den : Nat} (hden : 0 < den) : significand num den ≤ 2 ^ 24 :=
  roundHalfEven_le (by positivity) (lt_two_pow_of_binade num hden).le

theorem le_significand {num den : Nat} (hden : 0 < den) (h : binade num den ≠ 0) : 2 ^ 23 ≤ significand num den :=
  le_roundHalfEven (by positivity) (two_pow_le_of_binade hden h)

/-- Exponent field and fraction together count binades and significand. -/
theorem ulpCount_binade {j q : Nat} (hq : q ≤ 2 ^ 24) (h : j ≠ 0 → 2 ^ 23 ≤ q) :
    ulpCount (j * 2 ^ 23 + q) = q * 2 ^ j := by
  by_cases hsub : q < 2 ^ 23
  · obtain rfl : j = 0 := by by_contra hj; have := h hj; omega
    rw [Nat.zero_mul, Nat.zero_add, ulpCount, if_pos hsub, pow_zero, Nat.mul_one]
  · rw [ulpCount, if_neg (by omega)]
    by_cases hcarry : q = 2 ^ 24
    · have hexp : (j * 2 ^ 23 + q) / 2 ^ 23 - 1 = j + 1 := by omega
      have hfrac : (j * 2 ^ 23 + q) % 2 ^ 23 = 0 := by omega
      rw [hexp, hfrac, hcarry, pow_succ]
      ring
    · have hexp : (j * 2 ^ 23 + q) / 2 ^ 23 - 1 = j := by omega
      have hfrac : 2 ^ 23 + (j * 2 ^ 23 + q) % 2 ^ 23 = q := by omega
      rw [hexp, hfrac]

/-- A value in the binade `j` or above is a whole number of that binade's last places. -/
theorem two_pow_dvd_ulpCount {j k : Nat} (h : 2 ^ 23 * 2 ^ j ≤ ulpCount k) : 2 ^ j ∣ ulpCount k := by
  have hpos : 0 < 2 ^ j := by positivity
  unfold ulpCount at *
  split at h
  · omega
  · rw [if_neg ‹_›]
    refine Dvd.dvd.mul_left (pow_dvd_pow 2 ?_) _
    by_contra hlt
    have hpow : 2 * 2 ^ (k / 2 ^ 23 - 1) ≤ 2 ^ j := by
      rw [← pow_succ']
      exact Nat.pow_le_pow_right (by decide) (by omega)
    have hfrac : 2 ^ 23 + k % 2 ^ 23 < 2 ^ 24 := by omega
    have hmul := Nat.mul_lt_mul_of_pos_right hfrac (show 0 < 2 ^ (k / 2 ^ 23 - 1) by positivity)
    omega

/-- The value of the rounded significand, in units of 2^(-149). -/
def roundedUlps (num den : Nat) : Nat := significand num den * 2 ^ binade num den

/-! ### No finite pattern is nearer -/

/-- The distance of m * 2^(-149) from num / den, as an integer over the common denominator den * 2^149. -/
def ulpDistance (num : Int) (den : Nat) (m : Int) : Int := |m * den - num * ulpDenominator|

theorem abs_ulpsToRat_sub (num m : Int) {den : Nat} (hden : 0 < den) :
    |ulpsToRat m - (num : ℚ) / den| = (ulpDistance num den m : ℚ) / (den * ulpDenominator : ℕ) := by
  have hne : (0 : ℚ) < (ulpDenominator : ℕ) := by positivity
  have hpos : (0 : ℚ) < den := by exact_mod_cast hden
  rw [ulpsToRat, two_zpow_eq_one_div, ulpDistance]
  generalize ulpDenominator = d at hne ⊢
  have hfrac : (m : ℚ) * (1 / d) - num / den = ((m * den - num * d : ℤ) : ℚ) / (den * d : ℕ) := by
    push_cast
    field_simp
  rw [hfrac, abs_div, Nat.abs_cast, Int.cast_abs]

theorem ulpDistance_neg (num : Int) (den : Nat) (m : Int) : ulpDistance (-num) den (-m) = ulpDistance num den m := by
  rw [ulpDistance, ulpDistance, neg_mul, neg_mul, ← neg_sub', abs_neg]

/-- On whole numbers of last places the distance is the one `roundHalfEven` minimises. -/
theorem ulpDistance_mul_two_pow (num den : Nat) (c : Int) :
    ulpDistance num den (c * 2 ^ binade num den) =
      |c * (den * 2 ^ binade num den : Nat) - (num * ulpDenominator : Nat)| := by
  rw [ulpDistance, Nat.cast_mul num]
  push_cast
  ring_nf

theorem significand_nearest (num : Nat) {den : Nat} (hden : 0 < den) (c : Int) :
    ulpDistance num den (roundedUlps num den) ≤ ulpDistance num den (c * 2 ^ binade num den) ∧
      (c ≠ significand num den →
        ulpDistance num den (roundedUlps num den) = ulpDistance num den (c * 2 ^ binade num den) →
          significand num den % 2 = 0) := by
  have hcast : (roundedUlps num den : Int) = significand num den * 2 ^ binade num den := by
    rw [roundedUlps, Nat.cast_mul, Nat.cast_pow, Nat.cast_ofNat]
  rw [hcast, ulpDistance_mul_two_pow, ulpDistance_mul_two_pow]
  exact roundHalfEven_nearest (num * ulpDenominator) (by positivity) c

/-- A value below the binade is further away than the start of the binade, and so than the rounded value. -/
theorem ulpDistance_lt_of_below {num den : Nat} (hden : 0 < den) (hbinade : binade num den ≠ 0) {m : Int}
    (hm : m < 2 ^ 23 * 2 ^ binade num den) :
    ulpDistance num den (roundedUlps num den) < ulpDistance num den m := by
  have hstart : 2 ^ 23 * 2 ^ binade num den * (den : Int) ≤ num * ulpDenominator := by
    calc (2 : Int) ^ 23 * 2 ^ binade num den * den
        = ((2 ^ 23 * (den * 2 ^ binade num den) : Nat) : Int) := by push_cast; ring
      _ ≤ ((num * ulpDenominator : Nat) : Int) := Int.ofNat_le.mpr (two_pow_le_of_binade hden hbinade)
      _ = num * ulpDenominator := Nat.cast_mul _ _
  have hlt : m * den < 2 ^ 23 * 2 ^ binade num den * (den : Int) :=
    Int.mul_lt_mul_of_pos_right hm (by exact_mod_cast hden)
  calc ulpDistance num den (roundedUlps num den)
      ≤ ulpDistance num den (2 ^ 23 * 2 ^ binade num den) := (significand_nearest num hden _).1
    _ < ulpDistance num den m := by
        rw [ulpDistance, ulpDistance, abs_of_nonpos (by linarith), abs_of_neg (by linarith)]
        linarith

/-- The rounded value is no further from num / den than any value with the magnitude of a pattern; where another one is
equally near, the significand is even. -/
theorem roundedUlps_nearest (num : Nat) {den k : Nat} (hden : 0 < den) {m : Int} (hm : m.natAbs = ulpCount k) :
    ulpDistance num den (roundedUlps num den) ≤ ulpDistance num den m ∧
      (m ≠ roundedUlps num den →
        ulpDistance num den (roundedUlps num den) = ulpDistance num den m → significand num den % 2 = 0) := by
  by_cases hdvd : ((2 : Int) ^ binade num den) ∣ m
  · obtain ⟨c, rfl⟩ := hdvd
    rw [mul_comm]
    obtain ⟨hle, htie⟩ := significand_nearest num hden c
    refine ⟨hle, fun hne => htie fun hc => hne ?_⟩
    rw [hc, roundedUlps, Nat.cast_mul, Nat.cast_pow, Nat.cast_ofNat]
  · have hbinade : binade num den ≠ 0 := fun h0 => hdvd (by simp [h0])
    have hbelow : ulpCount k < 2 ^ 23 * 2 ^ binade num den := by
      by_contra hge
      refine hdvd (Int.dvd_natAbs.mp ?_)
      rw [hm]
      exact_mod_cast two_pow_dvd_ulpCount (not_lt.mp hge)
    have hlt : m < 2 ^ 23 * 2 ^ binade num den :=
      (Int.le_natAbs.trans_eq (congrArg _ hm)).trans_lt (by exact_mod_cast hbelow)
    have hfar := ulpDistance_lt_of_below hden hbinade hlt
    exact ⟨hfar.le, fun _ heq => absurd heq hfar.ne⟩

/-- The same with the sign of `num`: a negative number and its values are mirrored. -/
theorem signedInt_roundedUlps_nearest (num : Int) {den k : Nat} (hden : 0 < den) {m : Int}
    (hm : m.natAbs = ulpCount k) :
    ulpDistance num den (signedInt (decide (num < 0)) (roundedUlps num.natAbs den)) ≤ ulpDistance num den m ∧
      (m ≠ signedInt (decide (num < 0)) (roundedUlps num.natAbs den) →
        ulpDistance num den (signedInt (decide (num < 0)) (roundedUlps num.natAbs den)) = ulpDistance num den m →
          significand num.natAbs den % 2 = 0) := by
  by_cases hneg : num < 0
  · have hmirror : ∀ v : Int, ulpDistance num den v = ulpDistance num.natAbs den (-v) := by
      intro v
      rw [← ulpDistance_neg num, Int.ofNat_natAbs_of_nonpos hneg.le]
    obtain ⟨hle, htie⟩ := roundedUlps_nearest num.natAbs hden (m := -m) (k := k) (by rwa [Int.natAbs_neg])
    rw [decide_eq_true hneg, signedInt_true, hmirror, hmirror m, neg_neg]
    exact ⟨hle, fun hne => htie fun h => hne (by rw [← h, neg_neg])⟩
  · have habs : ((num.natAbs : Nat) : Int) = num := Int.natAbs_of_nonneg (not_lt.mp hneg)
    rw [decide_eq_false hneg, signedInt_false]
    have hnear := roundedUlps_nearest num.natAbs hden hm
    rwa [habs] at hnear

/-! ### The pattern of `rne32` -/

theorem rneMagnitude_le (num den : Nat) : rneMagnitude num den ≤ 0x7F800000 := min_le_right _ _

theorem magnitudeField_rne32 (num : Int) (den : Nat) :
    magnitudeField (rne32 num den) = rneMagnitude num.natAbs den := by
  have := rneMagnitude_le num.natAbs den
  rw [magnitudeField, rne32, extractLsb'_append_low, BitVec.toNat_ofNat, Nat.mod_eq_of_lt (by omega)]

theorem getLsbD_31_rne32 (num : Int) (den : Nat) : (rne32 num den).getLsbD 31 = decide (num < 0) := by
  rw [rne32, BitVec.getLsbD_append]
  simp

theorem getLsbD_0_rne32 (num : Int) (den : Nat) :
    (rne32 num den).getLsbD 0 = decide (rneMagnitude num.natAbs den % 2 = 1) := by
  rw [rne32, BitVec.getLsbD_append, if_pos (by decide), BitVec.getLsbD_ofNat, Nat.testBit_zero]
  simp

/-- Well below the largest finite value nothing is cut off. -/
theorem rneMagnitude_of_lt {num den : Nat} (hden : 0 < den) (h : num < 2 ^ 64 * den) :
    rneMagnitude num den = binade num den * 2 ^ 23 + significand num den ∧ rneMagnitude num den < 0x7F800000 := by
  have hq := significand_le num hden
  have hlt : num * ulpDenominator / den < 2 ^ 213 := by
    rw [Nat.div_lt_iff_lt_mul hden]
    calc num * ulpDenominator < 2 ^ 64 * den * ulpDenominator := Nat.mul_lt_mul_of_pos_right h (by positivity)
      _ = 2 ^ 213 * den := by ring
  have hlog : Nat.log2 (num * ulpDenominator / den) ≤ 213 := by
    rw [Nat.log2_eq_log_two, ← Nat.log_pow one_lt_two 213]
    exact Nat.log_mono_right hlt.le
  have hbinade : binade num den ≤ 190 := Nat.sub_le_sub_right hlog 23
  rw [rneMagnitude_eq_min]
  omega

/-- `rne32` gives the nearest pattern, ties to even, for every rational of magnitude below 2^64 (00_scope.md R11). -/
theorem nearestBinary32_rne32 {num : Int} {den : Nat} (hden : 0 < den) (h : num.natAbs < 2 ^ 64 * den) :
    NearestBinary32 num den (rne32 num den) := by
  obtain ⟨heq, hlt⟩ := rneMagnitude_of_lt hden h
  have hcount : ulpCount (rneMagnitude num.natAbs den) = roundedUlps num.natAbs den := by
    rw [heq]
    exact ulpCount_binade (significand_le _ hden) (le_significand hden)
  refine ⟨signedInt (decide (num < 0)) (roundedUlps num.natAbs den), ?value, fun c m hm => ?nearest⟩
  case value =>
    rw [real_of_magnitudeField_lt (by rwa [magnitudeField_rne32]), magnitudeField_rne32, getLsbD_31_rne32, hcount]
  case nearest =>
    have hpos : (0 : ℚ) < (den * ulpDenominator : ℕ) := by positivity
    rw [real_of_magnitudeField_lt (magnitudeField_lt_of_finite hm)] at hm
    cases hm
    obtain ⟨hle, htie⟩ := signedInt_roundedUlps_nearest num hden (natAbs_signedInt _ _)
    rw [abs_ulpsToRat_sub _ _ hden, abs_ulpsToRat_sub _ _ hden, div_le_div_iff_of_pos_right hpos,
      div_left_inj' hpos.ne', Int.cast_le, Int.cast_inj]
    refine ⟨hle, fun hne hdist => ?_⟩
    have heven := htie hne hdist
    rw [getLsbD_0_rne32, heq, decide_eq_false]
    omega

/-! ### `decCenti` and `decF32` -/

theorem decCenti_range (raw : Raw) : -20000 ≤ decCenti raw ∧ decCenti raw ≤ 45535 := by
  have := raw.isLt
  dsimp only [decCenti, Config.tempOffsetRaw]
  omega

/-- A multiple of 0.01 below 2^64 that is not zero rounds to a normal number. -/
theorem exponentField_rne32_centi {num : Int} (h0 : num ≠ 0) (h : num.natAbs < 2 ^ 64 * 100) :
    0 < ((rne32 num 100).extractLsb' 23 8).toNat ∧ ((rne32 num 100).extractLsb' 23 8).toNat < 255 := by
  obtain ⟨heq, hlt⟩ := rneMagnitude_of_lt (by decide) h
  have hbinade : binade num.natAbs 100 ≠ 0 := by
    have hge : 2 ^ 24 ≤ num.natAbs * ulpDenominator / 100 := by
      rw [Nat.le_div_iff_mul_le (by decide)]
      exact (show 2 ^ 24 * 100 ≤ 1 * ulpDenominator by decide).trans (Nat.mul_le_mul_right _ (by omega))
    have := (Nat.le_log2 (by omega)).mpr hge
    unfold binade
    omega
  have hq := le_significand (by decide) hbinade
  rw [exponentField_eq, magnitudeField_rne32]
  omega

/-- Settles O47: the range by `decCenti_range`, the nearest pattern by `nearestBinary32_rne32`, zero by evaluation and
every other value by `exponentField_rne32_centi`. -/
theorem decodedValueIsNearestAndNormal : Obligations.DecodedValueIsNearestAndNormal := by
  intro raw
  obtain ⟨hlo, hhi⟩ := decCenti_range raw
  have hsmall : (decCenti raw).natAbs < 2 ^ 64 * 100 := by omega
  refine ⟨rfl, hlo, hhi, nearestBinary32_rne32 (by decide) hsmall, fun h => ?zero, fun h => ?normal⟩
  case zero =>
    subst h
    decide
  case normal =>
    have hne : decCenti raw ≠ 0 := by
      intro h0
      refine h (BitVec.eq_of_toNat_eq (Int.ofNat_inj.mp ?_))
      exact sub_eq_zero.mp h0
    exact exponentField_rne32_centi hne hsmall

end Sys2Proof.Proofs

/-! ## Payload: RDP and LDP.0 to LDP.4 (41_payload.md R70, R71) -/

namespace Sys2Proof.Proofs

open Sys2Proof.Machine

/-! ### Reading the four bytes -/

/-- A word is its four operand bytes, byte 0 most significant (20_memory.md R35). -/
theorem append_operandByte (x : Word) :
    operandByte x 0 ++ operandByte x 1 ++ operandByte x 2 ++ operandByte x 3 = x := by
  simp only [operandByte, Nat.reduceMul, Nat.reduceSub]
  rw [BitVec.extractLsb'_append_extractLsb'_eq_extractLsb' (by rfl),
    BitVec.extractLsb'_append_extractLsb'_eq_extractLsb' (by rfl),
    BitVec.extractLsb'_append_extractLsb'_eq_extractLsb' (by rfl)]
  exact BitVec.extractLsb'_eq_self

/-- Where the four payload bytes are those of a word, RDP responds with that word and changes nothing else. -/
theorem execRdp_of_lookup {t : State} {v : Word} (h : ∀ a, a < 4 → t.payload.lookup a = operandByte v a) (x : Word) :
    execRdp x t = .next (t.appendResponse (responseWord .ok v)) := by
  rw [execRdp_eq, h 0 (by decide), h 1 (by decide), h 2 (by decide), h 3 (by decide), append_operandByte, respond_eq]

/-- Settles O11: every state by `execRdp_eq`, the reset state because its payload lists no byte, and ENC.T because its
four bytes are those of `raw : 0x0000` whatever the outcome. -/
theorem rdpReturnsAllFourBytes : Obligations.RdpReturnsAllFourBytes := by
  refine ⟨fun x s => ⟨decode_commandWord 0x28#8 x, execRdp_eq x s⟩, fun x ir => ?reset, fun x b s t hb => ?afterEncT⟩
  case reset =>
    have hzero : ∀ a, a < 4 → (State.resetWith ir).payload.lookup a = operandByte 0#32 a := fun a _ =>
      BitVec.extractLsb'_zero.symm
    exact execRdp_of_lookup hzero x
  case afterEncT =>
    obtain ⟨t', ht', hp, -⟩ := execEncT_next b s
    obtain rfl : t' = t := Host.Outcome.next.inj (ht'.symm.trans hb)
    refine execRdp_of_lookup (fun a ha => ?_) x
    rw [hp]
    exact lookup_storeAll_bytesOf s.payload _ a ha

/-! ### Loading the payload -/

/-- A command that loads n operand bytes has the whole effect of R70. -/
theorem ldpEffect_of_loadPayload {i : Instr} {n : Nat} {x : Word} {s : State} (h : exec i s = loadPayload n x s) :
    LdpEffect i n x s := by
  refine ⟨_, h.trans (loadPayload_eq n x s), fun a ha => ?byte, fun a ha => readByte_of_le ha s _, rfl⟩
  case byte =>
    rw [readByte_of_lt ha]
    exact congrArg Except.ok (lookup_storeAll_loadBytes s.payload n x a ha)

/-- Loading fewer than four bytes leaves a LEN other than 4, the one that DEC.T decodes at. -/
theorem len_ne_four_of_loadPayload {n : Nat} (hn : n < 4) {x : Word} {s t : State} (h : loadPayload n x s = .next t) :
    t.len ≠ 4#3 := by
  obtain rfl := Host.Outcome.next.inj ((loadPayload_eq n x s).symm.trans h)
  have hlen : BitVec.ofNat 3 n ≠ 4#3 := by interval_cases n <;> decide
  exact hlen

theorem len_ne_four_of_short_load {i : Instr} {x : Word} {s t : State} (hi : i ∈ [.ldp0 x, .ldp1 x, .ldp2 x, .ldp3 x])
    (ht : exec i s = .next t) : t.len ≠ 4#3 := by
  simp only [List.mem_cons, List.not_mem_nil, or_false] at hi
  rcases hi with rfl | rfl | rfl | rfl
  · exact len_ne_four_of_loadPayload (n := 0) (by decide) ht
  · exact len_ne_four_of_loadPayload (n := 1) (by decide) ht
  · exact len_ne_four_of_loadPayload (n := 2) (by decide) ht
  · exact len_ne_four_of_loadPayload (n := 3) (by decide) ht

/-- DEC.T with LEN ≠ 4 sets TRUNC and responds ERR_TRUNC (60_exceptions.md R92). -/
theorem exec_decT_truncated (y : Word) {t : State} (h : t.len ≠ 4#3) :
    ∃ u, exec (.decT y) t = .next u ∧ u.trunc = true ∧ ∃ d, u.responses = t.responses ++ [responseWord .errTrunc d] :=
  ⟨_, execDecT_of_len_ne y h, rfl, truncInfo t.len, rfl⟩

/-- Settles O21: each of the five commands is a `loadPayload`, and one of fewer than four bytes leaves LEN ≠ 4. -/
theorem ldpLoadsBytesAndZeroPads : Obligations.LdpLoadsBytesAndZeroPads := by
  refine ⟨fun x s => ?effects, fun x => ?decoded, fun i x y s t hi ht => ?truncated⟩
  case effects =>
    exact ⟨ldpEffect_of_loadPayload rfl, ldpEffect_of_loadPayload rfl, ldpEffect_of_loadPayload rfl,
      ldpEffect_of_loadPayload rfl, ldpEffect_of_loadPayload rfl⟩
  case decoded =>
    exact ⟨decode_commandWord 0x20#8 x, decode_commandWord 0x21#8 x, decode_commandWord 0x22#8 x,
      decode_commandWord 0x23#8 x, decode_commandWord 0x24#8 x⟩
  case truncated => exact exec_decT_truncated y (len_ne_four_of_short_load hi ht)

end Sys2Proof.Proofs

/-! ## The interval comparator: IV.SETI, IV.SETL, IV.TICK, IV.RDI and IV.RDL (42_interval.md R74 to R79) -/

namespace Sys2Proof.Proofs

open Sys2Proof.Machine

/-! ### The elapsed time -/

/-- `u32` of the difference, read as an integer (42_interval.md R74). -/
theorem toNat_elapsed (now last : Word) :
    ((elapsed now last).toNat : Int) = ((now.toNat : Int) - last.toNat) % 2 ^ 32 := by
  rw [elapsed, u32, BitVec.toNat_ofInt, Int.toNat_of_nonneg (Int.emod_nonneg _ (by decide))]
  rfl

/-- A time is read back from its 32-bit stamp whether or not the counter wrapped. -/
theorem toNat_elapsed_add (last : Word) {t : Nat} (ht : t < 2 ^ 32) :
    (elapsed (BitVec.ofNat 32 (last.toNat + t)) last).toNat = t := by
  have h := toNat_elapsed (BitVec.ofNat 32 (last.toNat + t)) last
  rw [BitVec.toNat_ofNat] at h
  omega

/-- A mark ahead of `now` makes the difference wrap (42_interval.md R76). -/
theorem toNat_elapsed_of_lt {now last : Word} (h : now.toNat < last.toNat) :
    (elapsed now last).toNat = 2 ^ 32 + now.toNat - last.toNat := by
  have he := toNat_elapsed now last
  have := last.isLt
  omega

theorem toNat_elapsed_pos {now last : Word} (h : now ≠ last) : 0 < (elapsed now last).toNat := by
  have hne : now.toNat ≠ last.toNat := fun heq => h (BitVec.eq_of_toNat_eq heq)
  have he := toNat_elapsed now last
  have := now.isLt
  have := last.isLt
  omega

/-- Settles O24: both laws of `elapsed`, and the example of R74 by evaluation. -/
theorem elapsedIsTheModularDifference : Obligations.ElapsedIsTheModularDifference :=
  ⟨toNat_elapsed, fun last _ ht => toNat_elapsed_add last ht, by decide⟩

/-! ### The tick -/

/-- A tick whose elapsed time exceeds INTERVAL fires and moves LAST. -/
theorem exec_ivTick_of_lt {now : Word} {s : State} (h : s.interval.toNat < (elapsed now s.last).toNat) :
    exec (.ivTick now) s =
      .next (((s.setLast now).setFire true).appendResponse (responseWord .ok 0x00000001#32)) :=
  execIvTick_of_lt h

/-- Any other tick clears FIRE and keeps LAST. -/
theorem exec_ivTick_of_not_lt {now : Word} {s : State} (h : ¬ s.interval.toNat < (elapsed now s.last).toNat) :
    exec (.ivTick now) s = .next ((s.setFire false).appendResponse (responseWord .ok 0x00000000#32)) :=
  execIvTick_of_not_lt h

/-- A tick completes, and FIRE is its verdict: the strict comparison of the elapsed time with INTERVAL. -/
theorem exec_ivTick_fire (now : Word) (s : State) :
    ∃ u, exec (.ivTick now) s = .next u ∧ (u.fire = true ↔ s.interval.toNat < (elapsed now s.last).toNat) := by
  by_cases h : s.interval.toNat < (elapsed now s.last).toNat
  · exact ⟨_, exec_ivTick_of_lt h, iff_of_true rfl h⟩
  · exact ⟨_, exec_ivTick_of_not_lt h, iff_of_false Bool.false_ne_true h⟩

/-- Settles O18: the rule's comparison of integers is the one of the two branches, by `toNat_elapsed`. -/
theorem ivTickFiresWhenElapsedExceedsInterval : Obligations.IvTickFiresWhenElapsedExceedsInterval := by
  intro now s e
  have he : ((elapsed now s.last).toNat : Int) = e := toNat_elapsed now s.last
  exact ⟨decode_commandWord 0x42#8 now, fun h => exec_ivTick_of_lt (by omega),
    fun h => exec_ivTick_of_not_lt (by omega)⟩

/-! ### Setting INTERVAL and LAST -/

theorem exec_ivSetI (x : Word) (s : State) :
    exec (.ivSetI x) s = .next ((s.setInterval x).appendResponse (responseWord .ok x)) := rfl

theorem exec_ivSetL (x : Word) (s : State) :
    exec (.ivSetL x) s = .next ((s.setLast x).appendResponse (responseWord .ok x)) := rfl

/-- The tick after an IV.SETI compares the time since the current LAST with the new INTERVAL (42_interval.md R75). -/
theorem exec_ivTick_after_ivSetI {x : Word} {s t : State} (ht : exec (.ivSetI x) s = .next t) (now : Word) :
    ∃ u, exec (.ivTick now) t = .next u ∧ (u.fire = true ↔ x.toNat < (elapsed now s.last).toNat) := by
  obtain rfl := Host.Outcome.next.inj ((exec_ivSetI x s).symm.trans ht)
  exact exec_ivTick_fire now _

/-- The tick after an IV.SETL compares the time since the new mark with the current INTERVAL (42_interval.md R76). -/
theorem exec_ivTick_after_ivSetL {x : Word} {s t : State} (ht : exec (.ivSetL x) s = .next t) (now : Word) :
    ∃ u, exec (.ivTick now) t = .next u ∧ (u.fire = true ↔ s.interval.toNat < (elapsed now x).toNat) := by
  obtain rfl := Host.Outcome.next.inj ((exec_ivSetL x s).symm.trans ht)
  exact exec_ivTick_fire now _

/-- Settles O16: the next tick by `exec_ivTick_after_ivSetI`; every elapsed time but that of `now` = LAST exceeds 0, and
none exceeds 0xFFFFFFFF. -/
theorem ivSetISetsTheInterval : Obligations.IvSetISetsTheInterval := by
  refine ⟨fun x s => ⟨decode_commandWord 0x40#8 x, exec_ivSetI x s⟩, fun x now s t ht => ?applies,
    fun now s t ht hne => ?zero, fun now s t ht => ?largest⟩
  case applies =>
    rw [← elapsed_eq_sub]
    exact exec_ivTick_after_ivSetI ht now
  case zero =>
    obtain ⟨u, hu, hfire⟩ := exec_ivTick_after_ivSetI ht now
    exact ⟨u, hu, hfire.mpr (toNat_elapsed_pos hne)⟩
  case largest =>
    obtain ⟨u, hu, hfire⟩ := exec_ivTick_after_ivSetI ht now
    have hle : (elapsed now s.last).toNat ≤ (0xFFFFFFFF#32 : Word).toNat :=
      Nat.le_of_lt_succ (BitVec.isLt _)
    exact ⟨u, hu, Bool.eq_false_iff.mpr fun h => absurd (hfire.mp h) hle.not_gt⟩

/-- Settles O17: the next tick by `exec_ivTick_after_ivSetL`, whose elapsed time wraps by `toNat_elapsed_of_lt`. -/
theorem ivSetLSetsTheMark : Obligations.IvSetLSetsTheMark := by
  refine ⟨fun x s => ⟨decode_commandWord 0x41#8 x, exec_ivSetL x s⟩, fun x now s t ht hlt => ?ahead⟩
  case ahead =>
    rw [← toNat_elapsed_of_lt hlt]
    exact exec_ivTick_after_ivSetL ht now

/-! ### Reading INTERVAL and LAST -/

/-- IV.RDI is the read of INTERVAL among the six reads. -/
theorem exec_ivRdI (x : Word) (s : State) :
    exec (.ivRdI x) s = .next (s.appendResponse (responseWord .ok s.interval)) :=
  exec_read (opcode_mem_reads (x := x) (by simp)) s

/-- IV.RDL is the read of LAST among the six reads. -/
theorem exec_ivRdL (x : Word) (s : State) :
    exec (.ivRdL x) s = .next (s.appendResponse (responseWord .ok s.last)) :=
  exec_read (opcode_mem_reads (x := x) (by simp)) s

/-- Settles O19: every state by `exec_ivRdI`, and so the reset state, whose INTERVAL is INTERVAL_RESET. -/
theorem ivRdIReturnsTheInterval : Obligations.IvRdIReturnsTheInterval :=
  ⟨fun x s => ⟨decode_commandWord 0x48#8 x, exec_ivRdI x s⟩, fun x ir => exec_ivRdI x (State.resetWith ir)⟩

/-- Settles O20: every state by `exec_ivRdL`, and so the reset state, whose LAST is 0. -/
theorem ivRdLReturnsTheMark : Obligations.IvRdLReturnsTheMark :=
  ⟨fun x s => ⟨decode_commandWord 0x49#8 x, exec_ivRdL x s⟩, fun x ir => exec_ivRdL x (State.resetWith ir)⟩

end Sys2Proof.Proofs

/-! ## Status: NOP, RDC, RDF, RDS and CLS (43_status.md R82 to R86) -/

namespace Sys2Proof.Proofs

open Sys2Proof.Machine

/-- NOP responds 0 and writes no register. -/
theorem exec_nop (x : Word) (s : State) :
    exec (.nop x) s = .next (s.appendResponse (responseWord .ok 0x00000000#32)) := respond_eq .ok 0x00000000#32 s

/-- Settles O10, by the decoder on a word put together from its fields and `exec_nop`. -/
theorem nopOnlyResponds : Obligations.NopOnlyResponds := fun x s =>
  ⟨decode_commandWord 0x00#8 x, exec_nop x s⟩

/-! ### Reading the decode registers -/

/-- RDC is the read of DEC_CENTI among the six reads. -/
theorem exec_rdc (x : Word) (s : State) :
    exec (.rdc x) s = .next (s.appendResponse (responseWord .ok s.decCenti)) :=
  exec_read (opcode_mem_reads (x := x) (by simp)) s

/-- RDF is the read of DEC_F32 among the six reads. -/
theorem exec_rdf (x : Word) (s : State) :
    exec (.rdf x) s = .next (s.appendResponse (responseWord .ok s.decF32)) :=
  exec_read (opcode_mem_reads (x := x) (by simp)) s

/-- Settles O12: every state by `exec_rdc`, and the reset value before any decode by the invariant. -/
theorem rdcReturnsDecCenti : Obligations.RdcReturnsDecCenti := by
  refine ⟨fun x s => ⟨decode_commandWord 0x30#8 x, exec_rdc x s⟩, fun x s hinv hdv => ?undecoded,
    by decide, by decide⟩
  case undecoded =>
    obtain ⟨hcenti, -⟩ := hinv.decodeReset hdv
    rw [← hcenti]
    exact exec_rdc x s

/-- No decoded value is −0: raw 20000 decodes to +0, and every other raw value to a pattern whose exponent field is
not 0. -/
theorem decF32_ne_negZero (raw : Raw) : decF32 raw ≠ 0x80000000#32 := by
  obtain ⟨-, -, -, -, hzero, hnormal⟩ := decodedValueIsNearestAndNormal raw
  intro h
  by_cases hraw : raw = 20000#16
  · rw [hzero hraw] at h
    exact absurd h (by decide)
  · obtain ⟨hexp, -⟩ := hnormal hraw
    rw [h] at hexp
    exact absurd hexp (by decide)

/-- A decoded value is finite, being a nearest binary32 value (40_codec.md R60). -/
theorem real_decF32_finite (raw : Raw) : ∃ n, real (decF32 raw) = .finite n := by
  obtain ⟨-, -, -, hnearest, -⟩ := decodedValueIsNearestAndNormal raw
  obtain ⟨n, hn, -⟩ := hnearest
  exact ⟨n, hn⟩

/-- Under the invariant DEC_F32 is +0, before any decode, or a decoded value: finite and not −0 either way. -/
theorem decF32_finite_ne_negZero_of_inv {s : State} (hinv : Inv s) :
    (∃ n, real s.decF32 = .finite n) ∧ s.decF32 ≠ 0x80000000#32 := by
  cases hdv : s.dvalid with
  | false =>
    obtain ⟨-, hf32⟩ := hinv.decodeReset hdv
    rw [hf32]
    exact ⟨⟨0, by decide⟩, by decide⟩
  | true =>
    obtain ⟨raw, -, hf32⟩ := hinv.decodeOfRaw hdv
    rw [hf32]
    exact ⟨real_decF32_finite raw, decF32_ne_negZero raw⟩

/-- Settles O13: every state by `exec_rdf`, the reset value before any decode by the invariant, and the range of
DEC_F32 by `decF32_finite_ne_negZero_of_inv`. -/
theorem rdfReturnsDecF32 : Obligations.RdfReturnsDecF32 := by
  refine ⟨fun x s => ⟨decode_commandWord 0x31#8 x, exec_rdf x s⟩, fun x s hinv hdv => ?undecoded,
    fun s => decF32_finite_ne_negZero_of_inv⟩
  case undecoded =>
    obtain ⟨-, hf32⟩ := hinv.decodeReset hdv
    rw [← hf32]
    exact exec_rdf x s

/-! ### The STATUS word (10_state.md R22) -/

/-- Every bit of the STATUS word, the lowest first: the six flags, two zeros, and LEN zero-extended. -/
theorem getLsbD_status (s : State) (k : Nat) :
    s.status.getLsbD k =
      match k with
      | 0 => s.sat
      | 1 => s.nan
      | 2 => s.trunc
      | 3 => s.ill
      | 4 => s.fire
      | 5 => s.dvalid
      | 6 | 7 => false
      | k + 8 => s.len.getLsbD k := by
  rw [State.status, BitVec.getLsbD_setWidth]
  simp only [BitVec.getLsbD_append]
  match k with
  | 0 | 1 | 2 | 3 | 4 | 5 | 6 | 7 => simp
  | j + 8 =>
    have hbeyond : 32 ≤ j + 8 → s.len.getLsbD j = false := fun h => BitVec.getLsbD_of_ge _ _ (by omega)
    by_cases h : j + 8 < 32
    · simp [h]
    · simp [h, hbeyond (not_lt.mp h)]

/-- Bits 7:6 are 0. -/
theorem extractLsb'_status_gap (s : State) : s.status.extractLsb' 6 2 = 0#2 := by
  ext i hi
  rw [BitVec.getElem_extractLsb', getLsbD_status]
  interval_cases i <;> simp

/-- Bits 10:8 are LEN. -/
theorem extractLsb'_status_len (s : State) : s.status.extractLsb' 8 3 = s.len := by
  ext i hi
  rw [BitVec.getElem_extractLsb', Nat.add_comm, getLsbD_status]
  exact BitVec.getLsbD_eq_getElem hi

/-- Bits 31:11 are beyond LEN's three. -/
theorem extractLsb'_status_high (s : State) : s.status.extractLsb' 11 21 = 0#21 := by
  ext i hi
  rw [BitVec.getElem_extractLsb', show 11 + i = i + 3 + 8 by omega, getLsbD_status, BitVec.getElem_zero]
  exact BitVec.getLsbD_of_ge _ _ (by omega)

/-- After reset the STATUS word is 0: no flag is set and LEN = 0. -/
theorem status_resetWith (ir : Word) : (State.resetWith ir).status = 0x00000000#32 := by
  simp [State.status]

/-! ### RDS -/

/-- RDS is the read of STATUS among the six reads. -/
theorem exec_rds (x : Word) (s : State) :
    exec (.rds x) s = .next (s.appendResponse (responseWord .ok s.status)) :=
  exec_read (opcode_mem_reads (x := x) (by simp)) s

/-- ENC.T leaves LEN = 4, whatever its outcome (40_codec.md R59). -/
theorem len_of_exec_encT {b : Word} {s t : State} (h : exec (.encT b) s = .next t) : t.len = 4#3 := by
  obtain ⟨u, hu, -, hok, hsat, hnan⟩ := execEncT_next b s
  obtain rfl : u = t := Host.Outcome.next.inj (hu.symm.trans h)
  cases houtcome : (encRaw b).2 with
  | ok => rw [hok houtcome]; rfl
  | sat => rw [hsat houtcome]; rfl
  | nan => rw [hnan houtcome]; rfl

/-- Settles O14: the response is the STATUS word, whose bits are read one field at a time; LEN after an ENC.T by
`len_of_exec_encT`. -/
theorem rdsReturnsTheStatusWord : Obligations.RdsReturnsTheStatusWord := by
  refine ⟨fun x s => ⟨decode_commandWord 0x38#8 x, s.status, exec_rds x s, ?bits⟩,
    fun x ir => ?reset, fun x b s t ht => ⟨t.status, exec_rds x t, ?lenAfterEncT⟩⟩
  case bits =>
    exact ⟨getLsbD_status s 0, getLsbD_status s 1, getLsbD_status s 2, getLsbD_status s 3, getLsbD_status s 4,
      getLsbD_status s 5, extractLsb'_status_gap s, extractLsb'_status_len s, extractLsb'_status_high s⟩
  case reset =>
    rw [exec_rds, status_resetWith]
    rfl
  case lenAfterEncT => rw [extractLsb'_status_len, len_of_exec_encT ht]

/-! ### CLS -/

/-- CLS is an RDS of the state with the masked sticky bits cleared (43_status.md R86). -/
theorem exec_cls_eq_exec_rds (x y : Word) (s : State) :
    exec (.cls x) s = exec (.rds y) (s.clearSticky (clearMask x)) := rfl

/-- The four mask bits of CLS are bits 0 to 3 of its operand (30_encoding.md R48). -/
theorem getLsbD_clearMask (x : Word) {k : Nat} (h : k < 4) : (clearMask x).getLsbD k = x.getLsbD k := by
  simp [clearMask, h]

theorem clearSticky_clearMask (x : Word) (s : State) :
    s.clearSticky (clearMask x) = { s with
      sat := s.sat && !x.getLsbD 0
      nan := s.nan && !x.getLsbD 1
      trunc := s.trunc && !x.getLsbD 2
      ill := s.ill && !x.getLsbD 3 } := by
  rw [State.clearSticky, getLsbD_clearMask x (by decide), getLsbD_clearMask x (by decide),
    getLsbD_clearMask x (by decide), getLsbD_clearMask x (by decide)]

/-- A mask of 0 clears nothing. -/
theorem clearSticky_zero (s : State) : s.clearSticky 0#4 = s := by
  simp [State.clearSticky]

/-- Settles O15: CLS is an RDS after the clear, the clear is that of operand bits 0 to 3, and that of mask 0 is
none. -/
theorem clsClearsTheMaskedStickyBits : Obligations.ClsClearsTheMaskedStickyBits := by
  refine ⟨fun x s => ⟨decode_commandWord 0x39#8 x, ?asRds, ?whole⟩, fun x y s hmask => ?maskZero⟩
  case asRds => rw [exec_cls_eq_exec_rds x 0#32, clearSticky_clearMask]
  case whole =>
    rw [exec_cls_eq_exec_rds x 0#32, clearSticky_clearMask, exec_rds]
    rfl
  case maskZero =>
    have hzero : clearMask x = 0#4 := hmask
    rw [exec_cls_eq_exec_rds x y, hzero, clearSticky_zero]

end Sys2Proof.Proofs

/-! ## Encoding: decode and encode, written-out words, response words, pseudo-instructions (30_encoding.md) -/

namespace Sys2Proof.Proofs

open Sys2Proof.Machine

/-! ### The round trip between commands and command words -/

/-- What `Laws.EncodeFields` says of each constructor, of every command. -/
theorem encodeFields_statement (i : Instr) : Laws.EncodeFields.Statement i :=
  match i with
  | .nop x => Laws.EncodeFields.nop x
  | .encT x => Laws.EncodeFields.encT x
  | .decT x => Laws.EncodeFields.decT x
  | .ldp0 x => Laws.EncodeFields.ldp0 x
  | .ldp1 x => Laws.EncodeFields.ldp1 x
  | .ldp2 x => Laws.EncodeFields.ldp2 x
  | .ldp3 x => Laws.EncodeFields.ldp3 x
  | .ldp4 x => Laws.EncodeFields.ldp4 x
  | .rdp x => Laws.EncodeFields.rdp x
  | .rdc x => Laws.EncodeFields.rdc x
  | .rdf x => Laws.EncodeFields.rdf x
  | .rds x => Laws.EncodeFields.rds x
  | .cls x => Laws.EncodeFields.cls x
  | .ivSetI x => Laws.EncodeFields.ivSetI x
  | .ivSetL x => Laws.EncodeFields.ivSetL x
  | .ivTick x => Laws.EncodeFields.ivTick x
  | .ivRdI x => Laws.EncodeFields.ivRdI x
  | .ivRdL x => Laws.EncodeFields.ivRdL x

@[simp] theorem decode_encode (i : Instr) : decode (encode i) = .ok i := by
  obtain ⟨hop, hx, hdecode⟩ := encodeFields_statement i
  rw [decode, hop, hx, hdecode]

/-- A word that decodes has an assigned opcode, which is the command's, and its operand is the command's. -/
theorem fields_of_decode {w : CommandWord} {i : Instr} (h : decode w = .ok i) :
    opField w ∈ assignedOpcodes ∧ i.opcode = opField w ∧ i.operand = operandField w := by
  by_cases hop : opField w ∈ assignedOpcodes
  · obtain ⟨j, hj, hopcode, hoperand⟩ := decodeFields_of_mem hop (operandField w)
    obtain rfl : j = i := Except.ok.inj (hj.symm.trans h)
    exact ⟨hop, hopcode, hoperand⟩
  · rw [decode, decodeFields_of_not_mem hop] at h
    cases h

theorem encode_of_decode {w : CommandWord} {i : Instr} (h : decode w = .ok i) : encode i = w := by
  obtain ⟨-, hopcode, hoperand⟩ := fields_of_decode h
  rw [encode, hopcode, hoperand, commandWord_fields]

/-- Settles O1: the one direction by the fields of an encoding, the other because a word is its two fields. -/
theorem decodeAndEncodeAgree : Obligations.DecodeAndEncodeAgree :=
  ⟨decode_encode, fun _ _ => encode_of_decode⟩

/-- Settles O4: eight closed words, by evaluation. -/
theorem writtenOutWordsDecode : Obligations.WrittenOutWordsDecode := by
  unfold Obligations.WrittenOutWordsDecode
  decide

/-! ### Response words -/

theorem decodeResponse_responseWord (c : OutcomeCode) (d : Word) :
    decodeResponse (responseWord c d) = some (c, d) := by
  rw [decodeResponse, responseCode_responseWord, responseData_responseWord]
  cases c with
  | ok | warnSat | warnNan | errTrunc | errIllegal => rfl

/-- A code is read exactly when it is one of the five of 60_exceptions.md R88. -/
theorem decodeResponse_eq_none_iff (r : ResponseWord) :
    decodeResponse r = none ↔ 5 ≤ (responseCode r).toNat := by
  have hcodes : ∀ c : BitVec 3, 5 ≤ c.toNat ↔ c ≠ 0#3 ∧ c ≠ 1#3 ∧ c ≠ 2#3 ∧ c ≠ 3#3 ∧ c ≠ 4#3 := by decide
  rw [hcodes, decodeResponse]
  split <;> simp_all

/-- Settles O9: the two fields of a concatenation, and the five codes. -/
theorem responseWordIsCodeThenData : Obligations.ResponseWordIsCodeThenData :=
  ⟨fun c d => ⟨responseCode_responseWord c d, responseData_responseWord c d, decodeResponse_responseWord c d⟩,
    decodeResponse_eq_none_iff, rfl, rfl, rfl, rfl, rfl⟩

/-! ### Pseudo-instructions -/

/-- An LDB of k bytes: the bytes given, then zeros (30_encoding.md R56). -/
theorem expand_ldb (b0 b1 b2 b3 : Byte) :
    expand (.ldb []) = .ok [.ldp0 0#32] ∧
    expand (.ldb [b0]) = .ok [.ldp1 (b0 ++ 0#24)] ∧
    expand (.ldb [b0, b1]) = .ok [.ldp2 (b0 ++ b1 ++ 0#16)] ∧
    expand (.ldb [b0, b1, b2]) = .ok [.ldp3 (b0 ++ b1 ++ b2 ++ 0#8)] ∧
    expand (.ldb [b0, b1, b2, b3]) = .ok [.ldp4 (b0 ++ b1 ++ b2 ++ b3)] := by
  have h1 : ldbOperand [b0] = b0 ++ 0#24 := by
    show b0 ++ 0#8 ++ 0#8 ++ 0#8 = b0 ++ 0#24
    apply BitVec.eq_of_toNat_eq
    simp only [BitVec.toNat_append, BitVec.toNat_ofNat, Nat.zero_mod, Nat.or_zero, ← Nat.shiftLeft_add]
  have h2 : ldbOperand [b0, b1] = b0 ++ b1 ++ 0#16 := by
    show b0 ++ b1 ++ 0#8 ++ 0#8 = b0 ++ b1 ++ 0#16
    apply BitVec.eq_of_toNat_eq
    simp only [BitVec.toNat_append, BitVec.toNat_ofNat, Nat.zero_mod, Nat.or_zero, ← Nat.shiftLeft_add]
  refine ⟨rfl, ?_, ?_, rfl, rfl⟩
  · rw [← h1]; rfl
  · rw [← h2]; rfl

theorem expand_ldb_of_four_lt {bytes : List Byte} (h : 4 < bytes.length) :
    expand (.ldb bytes) = .error .operandCount := by
  obtain ⟨k, hk⟩ := Nat.exists_eq_add_of_lt h
  have hlen : bytes.length = k + 5 := by omega
  rw [expand, hlen]
  rfl

/-- Settles O58: the LDB of each length by `expand_ldb` and `expand_ldb_of_four_lt`, the others as defined. -/
theorem pseudoInstructionsExpand : Obligations.PseudoInstructionsExpand :=
  ⟨fun _ _ => rfl, expand_ldb, fun _ => expand_ldb_of_four_lt, rfl, fun _ _ => rfl⟩

end Sys2Proof.Proofs

/-! ## What a command can do, case by case: outcomes, writers and the invariant (10_state.md, 60_exceptions.md R88) -/

namespace Sys2Proof.Proofs

open Sys2Proof.Machine

/-! ### The cases of `exec` -/

/-- The state LDP.n leaves before it responds: the loaded bytes and LEN = n (41_payload.md R70). -/
def payloadLoaded (n : Nat) (x : Word) (s : State) : State :=
  ({ s with payload := s.payload.storeAll 0 (loadBytes n x) } : State).setLen (BitVec.ofNat 3 n)

/-- Everything a command can do to the state `s`, one constructor for each branch of a meaning, with its guard. -/
inductive ExecCase (s : State) : Instr → State → Prop
  | quiet {i : Instr} (h : i.opcode ∈ quietOpcodes) (d : Word) :
      ExecCase s i (s.appendResponse (responseWord .ok d))
  | encOk (x d : Word) : ExecCase s (.encT x) ((encoded x s).appendResponse (responseWord .ok d))
  | encWarn (x d : Word) (c : Condition) (hc : c = .warnSat ∨ c = .warnNan) :
      ExecCase s (.encT x) (((encoded x s).setSticky c).appendResponse (responseWord (codeOf c) d))
  | load {i : Instr} {n : Nat} (hn : n ≤ 4) (h : i.opcode = 0x20#8 + BitVec.ofNat 8 n) (x d : Word) :
      ExecCase s i ((payloadLoaded n x s).appendResponse (responseWord .ok d))
  | decoded (x d : Word) (hlen : s.len = 4#3) (raw : Raw) :
      ExecCase s (.decT x) ((s.setDecoded (s32 (decCenti raw)) (decF32 raw)).appendResponse (responseWord .ok d))
  | truncated (x d : Word) :
      ExecCase s (.decT x) ((s.setSticky .errTrunc).appendResponse (responseWord .errTrunc d))
  | clear (x d : Word) : ExecCase s (.cls x) ((s.clearSticky (clearMask x)).appendResponse (responseWord .ok d))
  | setInterval (x d : Word) : ExecCase s (.ivSetI x) ((s.setInterval x).appendResponse (responseWord .ok d))
  | setLast (x d : Word) : ExecCase s (.ivSetL x) ((s.setLast x).appendResponse (responseWord .ok d))
  | fire (x d : Word) (h : s.interval.toNat < (elapsed x s.last).toNat) :
      ExecCase s (.ivTick x) (((s.setLast x).setFire true).appendResponse (responseWord .ok d))
  | noFire (x d : Word) (h : ¬ s.interval.toNat < (elapsed x s.last).toNat) :
      ExecCase s (.ivTick x) ((s.setFire false).appendResponse (responseWord .ok d))

theorem execCase_loadPayload {i : Instr} {n : Nat} {x : Word} {s : State} (h : exec i s = loadPayload n x s)
    (hn : n ≤ 4) (hop : i.opcode = 0x20#8 + BitVec.ofNat 8 n) : ∃ t, exec i s = .next t ∧ ExecCase s i t :=
  ⟨_, h.trans (loadPayload_eq n x s), .load hn hop x _⟩

theorem execCase_encT (x : Word) (s : State) : ∃ t, exec (.encT x) s = .next t ∧ ExecCase s (.encT x) t := by
  obtain ⟨t, ht, -, hok, hsat, hnan⟩ := execEncT_next x s
  refine ⟨t, ht, ?_⟩
  cases houtcome : (encRaw x).2 with
  | ok => rw [hok houtcome]; exact .encOk x _
  | sat => rw [hsat houtcome]; exact .encWarn x _ .warnSat (.inl rfl)
  | nan => rw [hnan houtcome]; exact .encWarn x _ .warnNan (.inr rfl)

theorem execCase_decT (x : Word) (s : State) : ∃ t, exec (.decT x) s = .next t ∧ ExecCase s (.decT x) t := by
  by_cases hlen : s.len = 4#3
  · exact ⟨_, execDecT_of_len_eq x hlen, .decoded x _ hlen s.tempRaw⟩
  · exact ⟨_, execDecT_of_len_ne x hlen, .truncated x _⟩

theorem execCase_ivTick (x : Word) (s : State) :
    ∃ t, exec (.ivTick x) s = .next t ∧ ExecCase s (.ivTick x) t := by
  by_cases h : s.interval.toNat < (elapsed x s.last).toNat
  · exact ⟨_, exec_ivTick_of_lt h, .fire x _ h⟩
  · exact ⟨_, exec_ivTick_of_not_lt h, .noFire x _ h⟩

/-- Every command completes, in one of the listed cases. -/
theorem exec_next_case (i : Instr) (s : State) : ∃ t, exec i s = .next t ∧ ExecCase s i t := by
  cases i with
  | encT x => exact execCase_encT x s
  | decT x => exact execCase_decT x s
  | ldp0 x => exact execCase_loadPayload (n := 0) (x := x) rfl (by decide) rfl
  | ldp1 x => exact execCase_loadPayload (n := 1) (x := x) rfl (by decide) rfl
  | ldp2 x => exact execCase_loadPayload (n := 2) (x := x) rfl (by decide) rfl
  | ldp3 x => exact execCase_loadPayload (n := 3) (x := x) rfl (by decide) rfl
  | ldp4 x => exact execCase_loadPayload (n := 4) (x := x) rfl (by decide) rfl
  | rdp x => exact ⟨_, execRdp_eq x s, .quiet (List.mem_of_elem_eq_true rfl) _⟩
  | nop | rdc | rdf | rds | ivRdI | ivRdL => exact ⟨_, rfl, .quiet (List.mem_of_elem_eq_true rfl) _⟩
  | cls x => exact ⟨_, rfl, .clear x _⟩
  | ivSetI x => exact ⟨_, rfl, .setInterval x _⟩
  | ivSetL x => exact ⟨_, rfl, .setLast x _⟩
  | ivTick x => exact execCase_ivTick x s

theorem execCase_of_exec {i : Instr} {s t : State} (h : exec i s = .next t) : ExecCase s i t := by
  obtain ⟨u, hu, hcase⟩ := exec_next_case i s
  obtain rfl : u = t := Host.Outcome.next.inj (hu.symm.trans h)
  exact hcase

/-! ### Outcome codes -/

theorem toNat_codeBits_le (c : OutcomeCode) : (codeBits c).toNat ≤ 4 := by
  cases c with
  | ok | warnSat | warnNan | errTrunc | errIllegal => decide

/-- What a case of `exec` responds: ERR_TRUNC from DEC.T alone, the two warnings from ENC.T alone. -/
theorem ExecCase.response {s t : State} {i : Instr} (h : ExecCase s i t) :
    ∃ (c : OutcomeCode) (d : Word), t.responses = s.responses ++ [responseWord c d] ∧ c ≠ .errIllegal ∧
      (c = .warnSat ∨ c = .warnNan → ∃ b, i = .encT b) ∧ (c = .errTrunc → ∃ x, i = .decT x) := by
  cases h with
  | encWarn x d c hc =>
    refine ⟨codeOf c, d, by simp, ?_, fun _ => ⟨x, rfl⟩, ?_⟩ <;> rcases hc with rfl | rfl <;> nofun
  | truncated x d => exact ⟨.errTrunc, d, by simp, nofun, nofun, fun _ => ⟨x, rfl⟩⟩
  | quiet _ d | encOk _ d | load _ _ _ d | decoded _ d | clear _ d | setInterval _ d | setLast _ d | fire _ d
  | noFire _ d => exact ⟨.ok, d, rfl, nofun, nofun, nofun⟩

/-- Settles O30: the response of each case of `exec`, and no code above 4. -/
theorem outcomeCodesByCommand : Obligations.OutcomeCodesByCommand := by
  intro i s t h
  obtain ⟨c, d, hresp, hill, hwarn, htrunc⟩ := (execCase_of_exec h).response
  exact ⟨c, d, hresp, toNat_codeBits_le c, hill, hwarn, htrunc⟩

/-! ### The writers of each register -/

/-- The opcode of LDP.n is a payload writer other than ENC.T, and its low three bits are n. -/
theorem ldp_opcode_facts {op : Byte} {n : Nat} (hn : n ≤ 4) (h : op = 0x20#8 + BitVec.ofNat 8 n) :
    op ≠ 0x10#8 ∧ op ∈ [0x20#8, 0x21#8, 0x22#8, 0x23#8, 0x24#8] ∧ op.extractLsb' 0 3 = BitVec.ofNat 3 n := by
  subst h
  interval_cases n <;> decide

theorem quiet_opcode_facts : ∀ op ∈ quietOpcodes,
    op ≠ 0x10#8 ∧ op ∉ [0x20#8, 0x21#8, 0x22#8, 0x23#8, 0x24#8] := by decide

/-- Settles O31, case by case of `exec`: the named updates of each case against the lists of 10_state.md. -/
theorem eachRegisterHasItsWriters : Obligations.EachRegisterHasItsWriters := by
  intro i s t h
  cases execCase_of_exec h with
  | quiet hop d =>
    obtain ⟨hne, hnot⟩ := quiet_opcode_facts _ hop
    simp_all
  | load hn hop x d =>
    obtain ⟨hne, hmem, hlow⟩ := ldp_opcode_facts hn hop
    simp +contextual [payloadLoaded, hne, hlow, List.mem_cons_of_mem _ hmem]
  | encOk x d => simp [Instr.opcode, encoded]
  | encWarn x d c hc => rcases hc with rfl | rfl <;> simp [Instr.opcode, encoded]
  | decoded x d hlen raw => simp [Instr.opcode, hlen]
  | clear x d => simp +contextual [Instr.opcode]
  | truncated x d | setInterval x d | setLast x d | fire x d | noFire x d => simp [Instr.opcode]

/-! ### The invariant -/

/-- Settles O36: after reset no byte is listed, LEN and the decode registers are 0, and there is no response. -/
theorem resetMeetsTheInvariant : Obligations.ResetMeetsTheInvariant := fun ir => {
  payloadCanonical := rfl
  lenLegal := by simp
  zeroPadded := fun _ _ => rfl
  decodeReset := fun _ => ⟨rfl, rfl⟩
  decodeOfRaw := nofun
  codesLegal := nofun }

/-- A response with one of the five codes keeps the invariant. -/
theorem inv_appendResponse {s : State} (h : Inv s) (c : OutcomeCode) (d : Word) :
    Inv (s.appendResponse (responseWord c d)) where
  payloadCanonical := h.payloadCanonical
  lenLegal := h.lenLegal
  zeroPadded := h.zeroPadded
  decodeReset := h.decodeReset
  decodeOfRaw := h.decodeOfRaw
  codesLegal := by
    intro r hr
    rcases List.mem_append.mp hr with hr | hr
    · exact h.codesLegal r hr
    · rw [List.mem_singleton.mp hr, responseCode_responseWord]
      exact toNat_codeBits_le c

/-- The invariant reads nothing but the payload with LEN, the decode registers with DVALID, and the responses. -/
theorem inv_congr {s t : State} (h : Inv s) (hp : t.payload = s.payload) (hl : t.len = s.len)
    (hc : t.decCenti = s.decCenti) (hf : t.decF32 = s.decF32) (hd : t.dvalid = s.dvalid)
    (hr : t.responses = s.responses) : Inv t where
  payloadCanonical := hp ▸ h.payloadCanonical
  lenLegal := hl ▸ h.lenLegal
  zeroPadded := hp ▸ hl ▸ h.zeroPadded
  decodeReset := hd ▸ hc ▸ hf ▸ h.decodeReset
  decodeOfRaw := hd ▸ hc ▸ hf ▸ h.decodeOfRaw
  codesLegal := hr ▸ h.codesLegal

theorem inv_setSticky {s : State} (h : Inv s) (c : Condition) : Inv (s.setSticky c) := by
  apply inv_congr h <;> simp

/-- Four stored bytes that are 0 from LEN on keep the invariant (41_payload.md R70). -/
theorem inv_storeAll {s : State} (h : Inv s) (bs : List Byte) (n : BitVec 3) (hbs : bs.length = 4) (hn : n.toNat ≤ 4)
    (hzero : ∀ a, n.toNat ≤ a → bs.getD a 0x00#8 = 0x00#8) :
    Inv (({ s with payload := s.payload.storeAll 0 bs } : State).setLen n) where
  payloadCanonical := Memory.wf_storeAll bs s.payload 0 (by omega) h.payloadCanonical
  lenLegal := hn
  zeroPadded := by
    intro a ha
    show Memory.lookup (s.payload.storeAll 0 bs) a = 0x00#8
    rw [Memory.lookup_storeAll]
    split
    · exact hzero a ha
    · exact Memory.lookup_of_wf _ _ (by omega) h.payloadCanonical
  decodeReset := h.decodeReset
  decodeOfRaw := h.decodeOfRaw
  codesLegal := h.codesLegal

theorem inv_encoded {s : State} (h : Inv s) (x : Word) : Inv (encoded x s) :=
  inv_storeAll h _ 4#3 (length_bytesOf 4 _) (by decide) fun a ha =>
    List.getD_eq_default _ _ (by rw [length_bytesOf]; exact ha)

theorem inv_payloadLoaded {s : State} (h : Inv s) {n : Nat} (hn : n ≤ 4) (x : Word) : Inv (payloadLoaded n x s) := by
  have hlen : (BitVec.ofNat 3 n).toNat = n := by rw [BitVec.toNat_ofNat]; omega
  refine inv_storeAll h _ _ (length_loadBytes n x) (by omega) fun a ha => ?_
  by_cases h4 : a < 4
  · simp [loadBytes, h4, show ¬ a < n by omega]
  · exact List.getD_eq_default _ _ (by rw [length_loadBytes]; omega)

theorem inv_setDecoded {s : State} (h : Inv s) (raw : Raw) :
    Inv (s.setDecoded (s32 (decCenti raw)) (decF32 raw)) where
  payloadCanonical := h.payloadCanonical
  lenLegal := h.lenLegal
  zeroPadded := h.zeroPadded
  decodeReset := nofun
  decodeOfRaw := fun _ => ⟨raw, rfl, rfl⟩
  codesLegal := h.codesLegal

/-- Every case of `exec` keeps the invariant. -/
theorem ExecCase.inv {s t : State} {i : Instr} (h : ExecCase s i t) (hinv : Inv s) : Inv t := by
  cases h with
  | quiet _ d => exact inv_appendResponse hinv _ _
  | encOk x d => exact inv_appendResponse (inv_encoded hinv x) _ _
  | encWarn x d c _ => exact inv_appendResponse (inv_setSticky (inv_encoded hinv x) c) _ _
  | load hn _ x d => exact inv_appendResponse (inv_payloadLoaded hinv hn x) _ _
  | decoded _ d _ raw => exact inv_appendResponse (inv_setDecoded hinv raw) _ _
  | truncated _ d => exact inv_appendResponse (inv_setSticky hinv _) _ _
  | clear | setInterval | setLast | fire | noFire =>
    refine inv_appendResponse ?_ _ _
    exact inv_congr hinv rfl rfl rfl rfl rfl rfl

/-- Every command word, assigned or not, keeps the invariant. -/
theorem inv_runCommand {s t : State} (hinv : Inv s) {w : CommandWord} (h : runCommand w s = .next t) : Inv t := by
  by_cases hop : opField w ∈ assignedOpcodes
  · obtain ⟨i, hi, -, -⟩ := runCommand_of_mem hop s
    exact (execCase_of_exec (hi.symm.trans h)).inv hinv
  · rw [runCommand_of_not_mem hop, execIllegal_eq] at h
    cases h
    exact inv_appendResponse (inv_setSticky hinv _) _ _

/-- A reset keeps the invariant: the registers are those of the reset state, the responses stay. -/
theorem inv_applyReset {s : State} (hinv : Inv s) : Inv s.applyReset :=
  { resetMeetsTheInvariant s.intervalReset with codesLegal := hinv.codesLegal }

/-- Settles O37: a step is idle, a command word or a reset, and each keeps the invariant. -/
theorem stepKeepsTheInvariant : Obligations.StepKeepsTheInvariant := by
  intro s t hinv h
  have hmoves : ∀ ms, Inv (s.setMoves ms) := fun _ => inv_congr hinv rfl rfl rfl rfl rfl rfl
  cases hm : s.moves with
  | nil =>
    rw [step, takeMove, hm] at h
    cases h
    exact hinv
  | cons m rest =>
    cases m with
    | command w =>
      rw [step_of_command hm] at h
      exact inv_runCommand (hmoves rest) h
    | reset =>
      rw [step, takeMove, hm] at h
      cases h
      exact inv_applyReset (hmoves rest)

end Sys2Proof.Proofs

/-! ## Runs of host moves (00_scope.md R6, R7, 20_memory.md section 5, 70_reset_and_hazards.md R103, R113) -/

namespace Sys2Proof.Proofs

open Sys2Proof.Machine

/-! ### One step -/

/-- Settles O5, by `step_of_command` and the decoder's answer. -/
theorem stepRunsTheDecodedCommand : Obligations.StepRunsTheDecodedCommand := by
  intro s w rest i hs hi
  rw [step_of_command hs, runCommand, hi]
  rfl

/-- Settles O6: the first case of `takeMove`. -/
theorem nothingHappensWithoutAHostMove : Obligations.NothingHappensWithoutAHostMove := by
  intro s hs
  rw [step, takeMove, hs]

/-- A pending reset is taken off the host's moves and happens. -/
theorem step_of_reset {s : State} {rest : List HostMove} (h : s.moves = .reset :: rest) :
    step s = .next (s.setMoves rest).applyReset := by
  rw [step, takeMove, h]

/-- Settles O26: the reset state with the host's two lists put back. -/
theorem resetMoveRestoresTheResetState : Obligations.ResetMoveRestoresTheResetState := by
  intro s rest hs
  rw [step_of_reset hs]
  rfl

/-! ### The host's lists pass through a command

No command reads the host's further moves or the responses already given, so both may be replaced before a command or
after it. -/

/-- The state with other moves pending and with older responses before those it has. -/
def withHost (ms : List HostMove) (older : List ResponseWord) (s : State) : State :=
  { s with moves := ms, responses := older ++ s.responses }

section host
variable (ms : List HostMove) (older : List ResponseWord) (s : State)

/-- Ending a command in the state `t`, where `t'` is `t` with the host's lists replaced. -/
theorem respond_withHost {t t' : State} (h : t' = withHost ms older t) (c : OutcomeCode) (d : Word) :
    respond c d t' = mapNext (withHost ms older) (respond c d t) := by
  subst h
  simp [respond, mapNext, withHost, State.appendResponse]

theorem raise_withHost {t t' : State} (h : t' = withHost ms older t) (c : Condition) (d : Word) :
    raise c d t' = mapNext (withHost ms older) (raise c d t) := by
  subst h
  cases c with
  | warnSat | warnNan | errTrunc | errIllegal => exact respond_withHost ms older (by rfl) _ d

theorem execEncT_withHost (x : Word) :
    execEncT x (withHost ms older s) = mapNext (withHost ms older) (execEncT x s) := by
  rw [execEncT_eq, execEncT_eq]
  cases (encRaw x).2 with
  | ok => exact respond_withHost ms older (by rfl) _ _
  | sat | nan => exact raise_withHost ms older (by rfl) _ _

theorem execDecT_withHost (x : Word) :
    execDecT x (withHost ms older s) = mapNext (withHost ms older) (execDecT x s) := by
  by_cases hlen : s.len = 4#3
  · rw [execDecT_of_len_eq x hlen, execDecT_of_len_eq x (show (withHost ms older s).len = 4#3 from hlen)]
    exact respond_withHost ms older (by rfl) _ _
  · rw [execDecT_of_len_ne x hlen, execDecT_of_len_ne x (show (withHost ms older s).len ≠ 4#3 from hlen)]
    exact raise_withHost ms older (by rfl) _ _

theorem loadPayload_withHost (n : Nat) (x : Word) :
    loadPayload n x (withHost ms older s) = mapNext (withHost ms older) (loadPayload n x s) := by
  rw [loadPayload_eq, loadPayload_eq]
  exact respond_withHost ms older (t := payloadLoaded n x s) rfl .ok (BitVec.ofNat 32 n)

theorem execRdp_withHost (x : Word) :
    execRdp x (withHost ms older s) = mapNext (withHost ms older) (execRdp x s) := by
  rw [execRdp_eq, execRdp_eq]
  exact respond_withHost ms older (by rfl) _ _

theorem execIvTick_withHost (x : Word) :
    execIvTick x (withHost ms older s) = mapNext (withHost ms older) (execIvTick x s) := by
  by_cases hlt : s.interval.toNat < (elapsed x s.last).toNat
  · rw [execIvTick_of_lt hlt, execIvTick_of_lt (s := withHost ms older s) hlt]
    exact respond_withHost ms older (by rfl) _ _
  · rw [execIvTick_of_not_lt hlt, execIvTick_of_not_lt (s := withHost ms older s) hlt]
    exact respond_withHost ms older (by rfl) _ _

theorem exec_withHost (i : Instr) :
    exec i (withHost ms older s) = mapNext (withHost ms older) (exec i s) := by
  cases i with
  | encT x => exact execEncT_withHost ms older s x
  | decT x => exact execDecT_withHost ms older s x
  | ldp0 x => exact loadPayload_withHost ms older s 0 x
  | ldp1 x => exact loadPayload_withHost ms older s 1 x
  | ldp2 x => exact loadPayload_withHost ms older s 2 x
  | ldp3 x => exact loadPayload_withHost ms older s 3 x
  | ldp4 x => exact loadPayload_withHost ms older s 4 x
  | rdp x => exact execRdp_withHost ms older s x
  | ivTick x => exact execIvTick_withHost ms older s x
  | nop | rdc | rdf | rds | cls | ivSetI | ivSetL | ivRdI | ivRdL => exact respond_withHost ms older (by rfl) _ _

theorem runCommand_withHost (w : CommandWord) :
    runCommand w (withHost ms older s) = mapNext (withHost ms older) (runCommand w s) := by
  by_cases hop : opField w ∈ assignedOpcodes
  · obtain ⟨j, hj, -, -⟩ := decodeFields_of_mem hop (operandField w)
    simp only [runCommand, decode, hj]
    exact exec_withHost ms older s j
  · rw [runCommand_of_not_mem hop, runCommand_of_not_mem hop]
    exact raise_withHost ms older (by rfl) _ _

end host

/-! ### A run, one move at a time -/

/-- What a move does to the registers and the responses, whatever moves are pending. -/
def moveOutcome : HostMove → State → Host.Outcome State Fault Refusal
  | .command w, s => runCommand w s
  | .reset, s => .next s.applyReset

theorem moveOutcome_withHost (m : HostMove) (ms : List HostMove) (older : List ResponseWord) (s : State) :
    moveOutcome m (withHost ms older s) = mapNext (withHost ms older) (moveOutcome m s) := by
  cases m with
  | command w => exact runCommand_withHost ms older s w
  | reset => rfl

theorem setMoves_eq_withHost (ms : List HostMove) (s : State) : s.setMoves ms = withHost ms [] s := rfl

/-- A step takes the first move off the host's list and makes it. -/
theorem step_setMoves_cons (m : HostMove) (ms : List HostMove) (s : State) :
    step (s.setMoves (m :: ms)) = moveOutcome m (s.setMoves ms) := by
  cases m with
  | command w => exact step_of_command rfl
  | reset => exact step_of_reset rfl

/-- Every move completes, whatever the state. -/
theorem moveOutcome_next (m : HostMove) (s : State) : ∃ u, moveOutcome m s = .next u := by
  cases m with
  | command w =>
    obtain ⟨u, hu, -⟩ := runCommand_commandEffect w s
    exact ⟨u, hu⟩
  | reset => exact ⟨_, rfl⟩

theorem runMoves_nil (s : State) : runMoves [] s = .next (s.setMoves []) := rfl

/-- A run makes its first move, then the others from the state that left (20_memory.md section 5). -/
theorem runMoves_cons {m : HostMove} {s u : State} (h : moveOutcome m s = .next u) (ms : List HostMove) :
    runMoves (m :: ms) s = runMoves ms u := by
  have hstep : step (s.setMoves (m :: ms)) = .next (u.setMoves ms) := by
    rw [step_setMoves_cons, setMoves_eq_withHost, moveOutcome_withHost, h]
    rfl
  rw [runMoves, List.length_cons, steps, hstep]
  rfl

/-- The moves that stand in the start state are not part of a run. -/
theorem runMoves_setMoves (ms ns : List HostMove) (s : State) : runMoves ms (s.setMoves ns) = runMoves ms s := rfl

/-- Settles O39, by induction on the first part, one move at a time. -/
theorem runsComposeInIssueOrder : Obligations.RunsComposeInIssueOrder := by
  intro ms ns
  induction ms with
  | nil => exact fun s => ⟨s.setMoves [], runMoves_nil s, (runMoves_setMoves ns [] s).symm⟩
  | cons m ms ih =>
    intro s
    obtain ⟨u, hu⟩ := moveOutcome_next m s
    rw [runMoves_cons hu, List.cons_append, runMoves_cons hu]
    exact ih u

/-! ### What every run does, from what every move does -/

/-- How many responses a move gets: a command one, a reset none. -/
theorem commandCount_cons (m : HostMove) (ms : List HostMove) :
    commandCount (m :: ms) = commandCount [m] + commandCount ms := by
  cases m with
  | command => exact Nat.add_comm _ _
  | reset => exact (Nat.zero_add _).symm

/-- A move appends one response with a code of at most 4, or none if it is a reset. -/
theorem moveOutcome_responses {m : HostMove} {s u : State} (h : moveOutcome m s = .next u) :
    ∃ rs : List ResponseWord, u.responses = s.responses ++ rs ∧ rs.length = commandCount [m] ∧
      ∀ r ∈ rs, (responseCode r).toNat ≤ 4 := by
  cases m with
  | command w =>
    have hstep : step (s.setMoves [.command w]) = .next (u.setMoves []) := by
      rw [step_setMoves_cons, setMoves_eq_withHost, moveOutcome_withHost, h]
      rfl
    obtain ⟨t, c, d, ht, -, hresp, -⟩ := everyCommandGetsOneResponse (s.setMoves [.command w]) w [] rfl
    obtain rfl : u.setMoves [] = t := Host.Outcome.next.inj (hstep.symm.trans ht)
    refine ⟨[responseWord c d], hresp, rfl, fun r hr => ?_⟩
    rw [List.mem_singleton.mp hr, responseCode_responseWord]
    exact toNat_codeBits_le c
  | reset =>
    cases h
    exact ⟨[], (List.append_nil _).symm, rfl, nofun⟩

/-- Settles O38, by induction on the moves. -/
theorem everyRunCompletesWithOneResponseEach : Obligations.EveryRunCompletesWithOneResponseEach := by
  intro ms
  induction ms with
  | nil => exact fun s => ⟨s.setMoves [], [], runMoves_nil s, rfl, (List.append_nil _).symm, rfl, nofun⟩
  | cons m ms ih =>
    intro s
    obtain ⟨u, hu⟩ := moveOutcome_next m s
    obtain ⟨rs, hrs, hlen, hcode⟩ := moveOutcome_responses hu
    obtain ⟨t, rs', ht, hmoves, hrs', hlen', hcode'⟩ := ih u
    refine ⟨t, rs ++ rs', (runMoves_cons hu ms).trans ht, hmoves, ?_, ?_, fun r hr => ?_⟩
    · rw [hrs', hrs, List.append_assoc]
    · rw [List.length_append, hlen, hlen', ← commandCount_cons]
    · exact (List.mem_append.mp hr).elim (hcode r) (hcode' r)

/-- Older responses pass through a run, as the moves pending before it do. -/
theorem runMoves_withHost (ms ns : List HostMove) (older : List ResponseWord) (s : State) :
    runMoves ms (withHost ns older s) = mapNext (withHost [] older) (runMoves ms s) := by
  induction ms generalizing s ns with
  | nil => rfl
  | cons m ms ih =>
    obtain ⟨u, hu⟩ := moveOutcome_next m s
    have hhost : moveOutcome m (withHost ns older s) = .next (withHost ns older u) := by
      rw [moveOutcome_withHost, hu]
      rfl
    rw [runMoves_cons hu, runMoves_cons hhost, ih]

/-- A reset leaves the reset state, with the responses received before. -/
theorem applyReset_eq_withHost (s : State) :
    s.applyReset = withHost s.moves s.responses (State.resetWith s.intervalReset) := by
  simp [State.applyReset, withHost]

/-- Settles O27: after the reset both runs are the run from the reset state, each with its own older responses. -/
theorem nothingSurvivesReset : Obligations.NothingSurvivesReset := by
  intro s t ms hir
  obtain ⟨u, rs, hu, hmoves, hrs, -⟩ := everyRunCompletesWithOneResponseEach ms (State.resetWith s.intervalReset)
  have hrun : ∀ v : State, v.intervalReset = s.intervalReset →
      runMoves (.reset :: ms) v = .next { u with responses := v.responses ++ rs } := by
    intro v hv
    rw [runMoves_cons (m := .reset) rfl, applyReset_eq_withHost, runMoves_withHost, hv, hu, mapNext, withHost, hrs,
      ← hmoves]
    rfl
  exact ⟨u, rs, hrun s rfl, hrun t hir.symm⟩

/-! ### INTERVAL at its largest value -/

/-- FIRE is 0 and INTERVAL, now and after a reset, is the largest value. -/
structure NeverFires (s : State) : Prop where
  fire : s.fire = false
  interval : s.interval = 0xFFFFFFFF#32
  intervalReset : s.intervalReset = 0xFFFFFFFF#32

/-- No elapsed time exceeds the largest INTERVAL, so no tick fires, and only IV.SETI could lower INTERVAL. -/
theorem ExecCase.neverFires {s t : State} {i : Instr} (h : ExecCase s i t) (hs : NeverFires s)
    (hop : i.opcode ≠ 0x40#8) : NeverFires t := by
  obtain ⟨hfire, hinterval, hreset⟩ := hs
  cases h with
  | setInterval => exact absurd rfl hop
  | fire x d hlt =>
    rw [hinterval] at hlt
    exact absurd (elapsed x s.last).isLt (Nat.not_lt.mpr hlt)
  | noFire => exact ⟨rfl, hinterval, hreset⟩
  | encWarn x d c => exact ⟨by simpa [encoded] using hfire, by simpa [encoded], by simpa [encoded]⟩
  | quiet | encOk | load | decoded | truncated | clear | setLast => exact ⟨hfire, hinterval, hreset⟩

theorem moveOutcome_neverFires {m : HostMove} {s u : State} (h : moveOutcome m s = .next u) (hs : NeverFires s)
    (hm : ∀ w, m = .command w → opField w ≠ 0x40#8) : NeverFires u := by
  cases m with
  | reset =>
    cases h
    exact ⟨rfl, hs.intervalReset, hs.intervalReset⟩
  | command w =>
    by_cases hop : opField w ∈ assignedOpcodes
    · obtain ⟨i, hi, hopcode, -⟩ := runCommand_of_mem hop s
      exact (execCase_of_exec (hi.symm.trans h)).neverFires hs (hopcode ▸ hm w rfl)
    · rw [moveOutcome, runCommand_of_not_mem hop, execIllegal_eq] at h
      cases h
      exact ⟨by simpa using hs.fire, by simpa using hs.interval, by simpa using hs.intervalReset⟩

theorem runMoves_neverFires (ms : List HostMove) (hms : ∀ w, .command w ∈ ms → opField w ≠ 0x40#8) (s : State)
    (hs : NeverFires s) : ∃ t, runMoves ms s = .next t ∧ NeverFires t := by
  induction ms generalizing s with
  | nil => exact ⟨_, runMoves_nil s, hs.fire, hs.interval, hs.intervalReset⟩
  | cons m ms ih =>
    obtain ⟨u, hu⟩ := moveOutcome_next m s
    rw [runMoves_cons hu]
    refine ih (fun w hw => hms w (List.mem_cons_of_mem m hw)) u (moveOutcome_neverFires hu hs fun w hw => ?_)
    exact hms w (hw ▸ List.mem_cons_self)

/-- Settles O28: the reset state never fires, and every move but an IV.SETI keeps that. -/
theorem recommendedResetNeverFires : Obligations.RecommendedResetNeverFires := by
  intro ms hms
  obtain ⟨t, ht, hfire, hinterval, -⟩ := runMoves_neverFires ms hms State.reset ⟨rfl, rfl, rfl⟩
  exact ⟨t, ht, hfire, hinterval⟩

/-! ### Sticky bits over a run -/

/-- What a command word's effect on a sticky bit is, read from the word and its response (43_status.md R87). -/
def StickyRecorded (c : Condition) (w : CommandWord) (s t : State) : Prop :=
  ∃ r : ResponseWord, t.responses = s.responses ++ [r] ∧
    t.stickyBit c = ((s.stickyBit c && !clearsSticky c w) || responseCode r == codeBits (codeOf c))

theorem clearsSticky_of_ne {w : CommandWord} (h : opField w ≠ 0x39#8) (c : Condition) : clearsSticky c w = false := by
  rw [clearsSticky, beq_eq_false_iff_ne.mpr h, Bool.false_and]

theorem codeBits_beq (c : OutcomeCode) (k : Condition) :
    (codeBits c == codeBits (codeOf k)) = decide (c = codeOf k) := by
  cases c <;> cases k <;> rfl

/-- An OK response of a command other than CLS that keeps the sticky bits. -/
theorem stickyRecorded_ok {w : CommandWord} {s t : State} (hop : opField w ≠ 0x39#8) (d : Word) (k : Condition)
    (hresp : t.responses = s.responses) (hbit : t.stickyBit k = s.stickyBit k) :
    StickyRecorded k w s (t.appendResponse (responseWord .ok d)) := by
  refine ⟨responseWord .ok d, congrArg (· ++ _) hresp, ?_⟩
  rw [clearsSticky_of_ne hop, responseCode_responseWord, codeBits_beq]
  show t.stickyBit k = _
  cases k <;> simp [hbit, codeOf]

theorem stickyBit_setSticky (c k : Condition) (s : State) :
    (s.setSticky c).stickyBit k = (s.stickyBit k || decide (codeOf c = codeOf k)) := by
  cases c <;> cases k <;> simp [State.stickyBit, codeOf]

/-- A raised condition of a command other than CLS: its own bit is set, the other three are kept. -/
theorem stickyRecorded_raise {w : CommandWord} {s t : State} (hop : opField w ≠ 0x39#8) (c : Condition) (d : Word)
    (k : Condition) (hresp : t.responses = s.responses) (hbit : t.stickyBit k = s.stickyBit k) :
    StickyRecorded k w s ((t.setSticky c).appendResponse (responseWord (codeOf c) d)) := by
  refine ⟨responseWord (codeOf c) d, by simp [hresp], ?_⟩
  rw [clearsSticky_of_ne hop, responseCode_responseWord, codeBits_beq]
  show (t.setSticky c).stickyBit k = _
  rw [stickyBit_setSticky, hbit, Bool.not_false, Bool.and_true]

/-- A CLS clears the bits of its mask and responds OK. -/
theorem stickyRecorded_clear {w : CommandWord} (hop : opField w = 0x39#8) (d : Word) (k : Condition) (s : State) :
    StickyRecorded k w s
      ((s.clearSticky (clearMask (operandField w))).appendResponse (responseWord .ok d)) := by
  refine ⟨responseWord .ok d, rfl, ?_⟩
  rw [clearSticky_clearMask, clearsSticky, hop, responseCode_responseWord, codeBits_beq]
  cases k <;> simp [State.stickyBit, maskIndex, codeOf]

/-- Every case of `exec` records its condition in the sticky bits. -/
theorem ExecCase.stickyRecorded {s t : State} {i : Instr} (h : ExecCase s i t) {w : CommandWord}
    (hop : i.opcode = opField w) (hx : i.operand = operandField w) (k : Condition) : StickyRecorded k w s t := by
  have hne : i.opcode ≠ 0x39#8 → opField w ≠ 0x39#8 := fun h => hop ▸ h
  cases h with
  | quiet hq d => exact stickyRecorded_ok (hne fun h39 => by rw [h39] at hq; exact absurd hq (by decide)) d k rfl rfl
  | load hn hl x d =>
    obtain ⟨-, hmem, -⟩ := ldp_opcode_facts hn hl
    exact stickyRecorded_ok (hne fun h39 => by rw [h39] at hmem; exact absurd hmem (by decide)) d k rfl rfl
  | encWarn x d c => exact stickyRecorded_raise (hne (by simp [Instr.opcode])) c d k rfl rfl
  | truncated x d => exact stickyRecorded_raise (hne (by simp [Instr.opcode])) .errTrunc d k rfl rfl
  | clear x d =>
    obtain rfl : x = operandField w := hx
    exact stickyRecorded_clear hop.symm d k s
  | encOk | decoded | setInterval | setLast | fire | noFire =>
    exact stickyRecorded_ok (hne (by simp [Instr.opcode])) _ k rfl rfl

theorem runCommand_stickyRecorded {w : CommandWord} {s t : State} (h : runCommand w s = .next t) (k : Condition) :
    StickyRecorded k w s t := by
  by_cases hop : opField w ∈ assignedOpcodes
  · obtain ⟨i, hi, hopcode, hoperand⟩ := runCommand_of_mem hop s
    exact (execCase_of_exec (hi.symm.trans h)).stickyRecorded hopcode hoperand k
  · rw [runCommand_of_not_mem hop, execIllegal_eq] at h
    cases h
    exact stickyRecorded_raise (fun h39 => hop (by rw [h39]; decide)) .errIllegal _ k rfl rfl

theorem runMoves_sticky (ms : List HostMove) (k : Condition) (s : State) :
    ∃ (t : State) (rs : List ResponseWord), runMoves ms s = .next t ∧ t.responses = s.responses ++ rs ∧
      t.stickyBit k = occurredSinceClear k (s.stickyBit k) ms rs := by
  induction ms generalizing s with
  | nil => exact ⟨s.setMoves [], [], runMoves_nil s, (List.append_nil _).symm, rfl⟩
  | cons m ms ih =>
    obtain ⟨u, hu⟩ := moveOutcome_next m s
    obtain ⟨t, rs, ht, hrs, hbit⟩ := ih u
    rw [runMoves_cons hu]
    cases m with
    | command w =>
      obtain ⟨r, hr, hrecorded⟩ := runCommand_stickyRecorded hu k
      refine ⟨t, r :: rs, ht, by rw [hrs, hr, List.append_assoc, List.singleton_append], ?_⟩
      rw [hbit, hrecorded, occurredSinceClear]
    | reset =>
      cases hu
      have hclear : s.applyReset.stickyBit k = false := by cases k <;> rfl
      refine ⟨t, rs, ht, hrs, ?_⟩
      rw [hbit, hclear, occurredSinceClear]

/-- Settles O40: the run of `runMoves_sticky` from the reset state, where no bit is set and no response given. -/
theorem stickyBitsRecordConditions : Obligations.StickyBitsRecordConditions := by
  intro ms ir c
  obtain ⟨t, rs, ht, hrs, hbit⟩ := runMoves_sticky ms c (State.resetWith ir)
  have hclear : (State.resetWith ir).stickyBit c = false := by cases c <;> rfl
  refine ⟨t, ht, ?_⟩
  rw [hbit, hclear, hrs]
  rfl

end Sys2Proof.Proofs

/-! ## Commands in sequence: the payload, the receive path, the comparator over time, the STATUS bits -/

namespace Sys2Proof.Proofs

open Sys2Proof.Machine

/-! ### A run of commands, one at a time -/

theorem runCommands_nil (s : State) : runCommands [] s = .next (s.setMoves []) := rfl

/-- A run of commands is the first one's meaning, then the others from the state it left. -/
theorem runCommands_cons {i : Instr} {s u : State} (h : exec i s = .next u) (is : List Instr) :
    runCommands (i :: is) s = runCommands is u := by
  have hmove : moveOutcome (.command (encode i)) s = .next u := by
    rw [moveOutcome, runCommand, decode_encode]
    exact h
  exact runMoves_cons hmove _

theorem runCommands_pair {i j : Instr} {s t u : State} (hi : exec i s = .next t) (hj : exec j t = .next u) :
    runCommands [i, j] s = .next (u.setMoves []) := by
  rw [runCommands_cons hi, runCommands_cons hj, runCommands_nil]

/-! ### MemWrite and MemRead (00_scope.md R12) -/

/-- Reading k bytes where the memory holds the first k bytes of an n-byte value gives its top 8k bits. -/
theorem bigEndianAt_eq_extractLsb' {n : Nat} {v : BitVec (8 * n)} {m : Memory} {addr : Nat}
    (h : ∀ i, i < n → m.lookup (addr + i) = v.extractLsb' (8 * (n - i) - 8) 8) (k : Nat) (hk : k ≤ n) :
    bigEndianAt m addr k = v.extractLsb' (8 * (n - k)) (8 * k) := by
  induction k with
  | zero => exact Subsingleton.elim (α := BitVec 0) _ _
  | succ k ih =>
    rw [bigEndianAt_succ, ih (by omega), h k (by omega)]
    exact BitVec.extractLsb'_append_extractLsb'_eq_extractLsb' (by omega) |>.trans
      (by congr 1; omega)

/-- The byte a write of an n-byte value leaves at its i-th address. -/
theorem lookup_storeAll_bytesOf_add (m : Memory) (addr : Nat) {n : Nat} (v : BitVec (8 * n)) {i : Nat} (hi : i < n) :
    (m.storeAll addr (bytesOf n v)).lookup (addr + i) = v.extractLsb' (8 * (n - i) - 8) 8 := by
  rw [Memory.lookup_storeAll, length_bytesOf, if_pos ⟨Nat.le_add_right _ _, Nat.add_lt_add_left hi _⟩]
  simp [bytesOf, hi]

theorem memWrite_of_le {addr n : Nat} (h : addr + n ≤ 4) (v : BitVec (8 * n)) (s : State) :
    memWrite addr n v s = .ok { s with payload := s.payload.storeAll addr (bytesOf n v) } := by
  rcases writeBytes_cases addr (bytesOf n v) s with ⟨-, hw⟩ | ⟨hlt, -⟩
  · exact hw
  · rw [length_bytesOf] at hlt
    omega

theorem memWrite_of_lt {addr n : Nat} (h : 4 < addr + n) (v : BitVec (8 * n)) (s : State) :
    memWrite addr n v s = .error (.payloadAddress addr n) := by
  rcases writeBytes_cases addr (bytesOf n v) s with ⟨hle, -⟩ | ⟨-, hw⟩
  · rw [length_bytesOf] at hle
    omega
  · rw [length_bytesOf] at hw
    exact hw

theorem memRead_of_le {addr n : Nat} (h : addr + n ≤ 4) (s : State) :
    memRead addr n s = .ok (bigEndianAt s.payload addr n) := if_pos h

theorem memRead_of_lt {addr n : Nat} (h : 4 < addr + n) (s : State) :
    memRead addr n s = .error (.payloadAddress addr n) := if_neg (Nat.not_le.mpr h)

/-- Settles O35: the value reads back byte by byte, the other bytes by the rule of consecutive stores. -/
theorem payloadReadsBackWhatWasWritten : Obligations.PayloadReadsBackWhatWasWritten := by
  refine ⟨fun addr n v s h => ⟨_, memWrite_of_le h v s, ?readsBack, rfl, fun a ha => ?others⟩,
    fun addr n v s h => ⟨memWrite_of_lt h v s, memRead_of_lt h s⟩⟩
  case readsBack =>
    rw [memRead_of_le h, bigEndianAt_eq_extractLsb' (fun i hi => lookup_storeAll_bytesOf_add _ _ v hi) n le_rfl,
      Nat.sub_self, Nat.mul_zero, BitVec.extractLsb'_eq_self]
  case others =>
    have hkeep : (s.payload.storeAll addr (bytesOf n v)).lookup a = s.payload.lookup a := by
      rw [Memory.lookup_storeAll, length_bytesOf, if_neg (by omega)]
    simp only [readByte, hkeep]

/-! ### LDP.n, then RDP or DEC.T -/

theorem exec_ldp {i : Instr} {n : Nat} {x : Word}
    (h : (i, n) ∈ [(Instr.ldp0 x, 0), (Instr.ldp1 x, 1), (Instr.ldp2 x, 2), (Instr.ldp3 x, 3), (Instr.ldp4 x, 4)])
    (s : State) :
    n ≤ 4 ∧ exec i s = .next ((payloadLoaded n x s).appendResponse (responseWord .ok (BitVec.ofNat 32 n))) := by
  obtain ⟨hn, hload⟩ : n ≤ 4 ∧ exec i s = loadPayload n x s := by
    simp only [List.mem_cons, Prod.mk.injEq, List.not_mem_nil, or_false] at h
    rcases h with ⟨rfl, rfl⟩ | ⟨rfl, rfl⟩ | ⟨rfl, rfl⟩ | ⟨rfl, rfl⟩ | ⟨rfl, rfl⟩ <;> exact ⟨by decide, rfl⟩
  exact ⟨hn, hload.trans (loadPayload_eq n x s)⟩

/-- The mask 0xFFFFFFFF << (32 − 8n), byte by byte. -/
theorem operandByte_mask {n a : Nat} (hn : n ≤ 4) (ha : a < 4) :
    operandByte (BitVec.ofNat 32 (2 ^ 32 - 2 ^ (32 - 8 * n))) a = if a < n then 0xFF#8 else 0x00#8 := by
  interval_cases n <;> interval_cases a <;> rfl

/-- The bytes LDP.n loads are those of the masked operand. -/
theorem operandByte_masked {n a : Nat} (hn : n ≤ 4) (ha : a < 4) (x : Word) :
    operandByte (x &&& BitVec.ofNat 32 (2 ^ 32 - 2 ^ (32 - 8 * n))) a = if a < n then operandByte x a else 0x00#8 := by
  have hand : ∀ y : Word, operandByte (x &&& y) a = operandByte x a &&& operandByte y a := fun y =>
    BitVec.extractLsb'_and
  rw [hand, operandByte_mask hn ha]
  split
  · exact BitVec.and_allOnes
  · exact BitVec.and_zero

/-- Settles O53: RDP answers the word whose bytes the load left, and those are the masked operand's. -/
theorem loadThenReadMasksTheOperand : Obligations.LoadThenReadMasksTheOperand := by
  intro x y s i n hi
  obtain ⟨hn, hload⟩ := exec_ldp hi s
  have hread := execRdp_of_lookup
    (t := (payloadLoaded n x s).appendResponse (responseWord .ok (BitVec.ofNat 32 n)))
    (v := x &&& BitVec.ofNat 32 (2 ^ 32 - 2 ^ (32 - 8 * n)))
    (fun a ha => (lookup_storeAll_loadBytes s.payload n x a ha).trans (operandByte_masked hn ha x).symm) y
  exact ⟨_, runCommands_pair hload hread, List.append_assoc _ _ _⟩

/-- Operand bits 31:16 are the two bytes of TEMP_RAW. -/
theorem tempRaw_payloadLoaded_four (x : Word) (s : State) : (payloadLoaded 4 x s).tempRaw = x.extractLsb' 16 16 := by
  have hbyte : ∀ a, a < 4 → (payloadLoaded 4 x s).payload.lookup a = operandByte x a := fun a ha =>
    (lookup_storeAll_loadBytes s.payload 4 x a ha).trans (if_pos ha)
  rw [State.tempRaw, hbyte 0 (by decide), hbyte 1 (by decide)]
  exact BitVec.extractLsb'_append_extractLsb'_eq_extractLsb' (by rfl)

/-- Settles O54: DEC.T after LDP.4 decodes the loaded bytes; after a shorter load LEN ≠ 4 and it truncates. -/
theorem receivePathDecodesOrTruncates : Obligations.ReceivePathDecodesOrTruncates := by
  refine fun x y s => ⟨?decodes, fun i n hi => ?truncates⟩
  case decodes =>
    obtain ⟨-, hload⟩ := exec_ldp (i := .ldp4 x) (n := 4) (x := x) (by simp) s
    refine ⟨_, runCommands_pair hload (execDecT_of_len_eq y rfl), ?_, ?_, ?_⟩
    · exact congrArg (fun r => s32 (decCenti r)) (tempRaw_payloadLoaded_four x s)
    · exact congrArg decF32 (tempRaw_payloadLoaded_four x s)
    · exact List.append_assoc _ _ _
  case truncates =>
    have hmem : (i, n) ∈ [(Instr.ldp0 x, 0), (Instr.ldp1 x, 1), (Instr.ldp2 x, 2), (Instr.ldp3 x, 3),
        (Instr.ldp4 x, 4)] := List.mem_append_left [(Instr.ldp4 x, 4)] hi
    have hn : n < 4 := by
      simp only [List.mem_cons, Prod.mk.injEq, List.not_mem_nil, or_false] at hi
      omega
    obtain ⟨-, hload⟩ := exec_ldp hmem s
    have hlen : BitVec.ofNat 3 n ≠ 4#3 := by interval_cases n <;> decide
    have hinfo : truncInfo (BitVec.ofNat 3 n) = 0x00000400#32 ||| BitVec.ofNat 32 n := by
      interval_cases n <;> rfl
    refine ⟨_, runCommands_pair hload (execDecT_of_len_ne y hlen), rfl, rfl, rfl, rfl, ?_⟩
    rw [← hinfo]
    exact List.append_assoc _ _ _

/-! ### Ticks over time -/

/-- Settles O56: a tick's verdict compares the elapsed time, which is read back from the stamp. -/
theorem tickIsCorrectAcrossWraparound : Obligations.TickIsCorrectAcrossWraparound := by
  intro s elapsedMs hlt
  obtain ⟨t, ht, hfire⟩ := exec_ivTick_fire (BitVec.ofNat 32 (s.last.toNat + elapsedMs)) s
  rw [toNat_elapsed_add s.last hlt] at hfire
  exact ⟨t, ht, hfire⟩

/-- A tick, by its verdict `b`: the response, and LAST moved where it fired. -/
theorem exec_ivTick_verdict (now : Word) (s : State) {b : Bool}
    (hb : b = decide (s.interval.toNat < (elapsed now s.last).toNat)) :
    ∃ u, exec (.ivTick now) s = .next u ∧ u.interval = s.interval ∧ u.last = (if b then now else s.last) ∧
      u.responses = s.responses ++ [tickResponse b] := by
  by_cases h : s.interval.toNat < (elapsed now s.last).toNat
  · obtain rfl : b = true := hb.trans (decide_eq_true h)
    exact ⟨_, exec_ivTick_of_lt h, rfl, rfl, rfl⟩
  · obtain rfl : b = false := hb.trans (decide_eq_false h)
    exact ⟨_, exec_ivTick_of_not_lt h, rfl, rfl, rfl⟩

/-- The comparison of `firings` is the one a tick makes (42_interval.md R74). -/
theorem firings_cons (interval last now : Word) (ns : List Word) :
    firings interval last (now :: ns) =
      decide (interval.toNat < (elapsed now last).toNat) ::
        firings interval (if decide (interval.toNat < (elapsed now last).toNat) then now else last) ns := by
  have he := toNat_elapsed now last
  by_cases h : interval.toNat < (elapsed now last).toNat
  · rw [firings, if_pos (by omega), decide_eq_true h, if_pos rfl]
  · rw [firings, if_neg (by omega), decide_eq_false h, if_neg Bool.false_ne_true]

/-- Settles O55, by induction on the ticks. -/
theorem ticksFireAtFirstCrossings : Obligations.TicksFireAtFirstCrossings := by
  intro ns
  induction ns with
  | nil => exact fun s => ⟨s.setMoves [], runCommands_nil s, rfl, (List.append_nil _).symm⟩
  | cons now ns ih =>
    intro s
    obtain ⟨u, hu, hinterval, hlast, hresp⟩ := exec_ivTick_verdict now s rfl
    obtain ⟨t, ht, hinterval', hresp'⟩ := ih u
    refine ⟨t, (runCommands_cons hu _).trans ht, hinterval'.trans hinterval, ?_⟩
    rw [hresp', hresp, hinterval, hlast, firings_cons, List.map_cons, List.append_assoc, List.singleton_append]

/-- A true time at most 2^32 − 1 ms after the last send is read back from the two stamps. -/
theorem toNat_elapsed_ofNat {now sent : Nat} (hle : sent ≤ now) (hlt : now - sent < 2 ^ 32) :
    (elapsed (BitVec.ofNat 32 now) (BitVec.ofNat 32 sent)).toNat = now - sent := by
  have he := toNat_elapsed (BitVec.ofNat 32 now) (BitVec.ofNat 32 sent)
  rw [BitVec.toNat_ofNat, BitVec.toNat_ofNat] at he
  omega

/-- Spaced ticks give the verdicts of true time, from any tick time `prev` that the interval still covers. -/
theorem runCommands_spacedTicks (times : List Nat) (sent prev : Nat) (s : State) (hlast : s.last = BitVec.ofNat 32 sent)
    (hsent : sent ≤ prev) (hprev : prev - sent ≤ s.interval.toNat)
    (hspaced : SpacedBy (2 ^ 32 - 1 - s.interval.toNat) prev times) :
    ∃ t, runCommands (times.map fun τ => Instr.ivTick (BitVec.ofNat 32 τ)) s = .next t ∧
      t.responses = s.responses ++ (trueFirings s.interval.toNat sent times).map tickResponse := by
  induction times generalizing s sent prev with
  | nil => exact ⟨s.setMoves [], runCommands_nil s, (List.append_nil _).symm⟩
  | cons now times ih =>
    obtain ⟨hle, hgap, hrest⟩ := hspaced
    have hbound := s.interval.isLt
    have helapsed : (elapsed (BitVec.ofNat 32 now) s.last).toNat = now - sent := by
      rw [hlast]
      exact toNat_elapsed_ofNat (by omega) (by omega)
    obtain ⟨u, hu, hinterval, hulast, hresp⟩ := exec_ivTick_verdict (BitVec.ofNat 32 now) s rfl
    rw [helapsed] at hulast hresp
    rw [List.map_cons, runCommands_cons hu, trueFirings]
    by_cases hfire : s.interval.toNat < now - sent
    · rw [decide_eq_true hfire] at hulast hresp
      obtain ⟨t, ht, hresp'⟩ := ih now now u hulast le_rfl (by omega) (hinterval ▸ hrest)
      refine ⟨t, ht, ?_⟩
      rw [hresp', hresp, hinterval, if_pos hfire, List.map_cons, List.append_assoc, List.singleton_append]
    · rw [decide_eq_false hfire] at hulast hresp
      obtain ⟨t, ht, hresp'⟩ := ih sent now u (hulast.trans hlast) (by omega)
        (hinterval ▸ Nat.not_lt.mp hfire) (hinterval ▸ hrest)
      refine ⟨t, ht, ?_⟩
      rw [hresp', hresp, hinterval, if_neg hfire, List.map_cons, List.append_assoc, List.singleton_append]

/-- Settles O57: the first tick is spaced from the send itself. -/
theorem spacedTicksFireOnTrueTime : Obligations.SpacedTicksFireOnTrueTime := fun times sent s hlast hspaced =>
  runCommands_spacedTicks times sent sent s hlast le_rfl (by omega) hspaced

end Sys2Proof.Proofs

/-! ## No command's behaviour depends on a STATUS bit (10_state.md section 5) -/

namespace Sys2Proof.Proofs

open Sys2Proof.Machine

/-- The state with the six STATUS bits overwritten. -/
def withStatus (sa na tr il fi dv : Bool) (s : State) : State :=
  { s with sat := sa, nan := na, trunc := tr, ill := il, fire := fi, dvalid := dv }

/-- What the obligation asks of a command `i` that takes `s` to `t`, for every overwriting of the bits of `s`. -/
def StatusBlind (i : Instr) (s t : State) : Prop :=
  ∀ sa na tr il fi dv : Bool, ∃ (sa' na' tr' il' fi' dv' : Bool) (rs : List ResponseWord),
    exec i (withStatus sa na tr il fi dv s) =
        .next { withStatus sa' na' tr' il' fi' dv' t with responses := rs } ∧
      StatusBitTreatedAlike s.sat t.sat sa sa' ∧ StatusBitTreatedAlike s.nan t.nan na na' ∧
      StatusBitTreatedAlike s.trunc t.trunc tr tr' ∧ StatusBitTreatedAlike s.ill t.ill il il' ∧
      StatusBitTreatedAlike s.fire t.fire fi fi' ∧ StatusBitTreatedAlike s.dvalid t.dvalid dv dv' ∧
      (i.opcode ≠ 0x38#8 → i.opcode ≠ 0x39#8 → rs = t.responses) ∧
      (i.opcode = 0x38#8 ∨ i.opcode = 0x39#8 →
        rs = s.responses ++ [responseWord .ok (State.status (withStatus sa' na' tr' il' fi' dv' t))])

theorem statusBit_kept (b b' : Bool) : StatusBitTreatedAlike b b b' b' := .inl ⟨rfl, rfl⟩

theorem statusBit_written (b b' v : Bool) : StatusBitTreatedAlike b v b' v := .inr rfl

/-- A bit cleared by a mask bit ends 0 in both; where the mask bit is 0 it is kept in both. -/
theorem statusBit_masked (b b' m : Bool) : StatusBitTreatedAlike b (b && !m) b' (b' && !m) := by
  cases m with
  | true => exact .inr (by simp)
  | false => exact .inl (by simp)

/-- A command that neither reads nor writes a STATUS bit: the overwriting passes through it. -/
theorem statusBlind_of_kept {i : Instr} {s t : State} (hop : ¬ (i.opcode = 0x38#8 ∨ i.opcode = 0x39#8))
    (hbits : withStatus s.sat s.nan s.trunc s.ill s.fire s.dvalid t = t)
    (h : ∀ sa na tr il fi dv, exec i (withStatus sa na tr il fi dv s) = .next (withStatus sa na tr il fi dv t)) :
    StatusBlind i s t := by
  intro sa na tr il fi dv
  rw [← hbits] at h ⊢
  exact ⟨sa, na, tr, il, fi, dv, _, h sa na tr il fi dv, statusBit_kept _ _, statusBit_kept _ _, statusBit_kept _ _,
    statusBit_kept _ _, statusBit_kept _ _, statusBit_kept _ _, fun _ _ => rfl, fun h => absurd h hop⟩

theorem statusBlind_loadPayload {i : Instr} {n : Nat} {x : Word} (h : ∀ s, exec i s = loadPayload n x s)
    (hop : ¬ (i.opcode = 0x38#8 ∨ i.opcode = 0x39#8)) {s t : State} (ht : exec i s = .next t) : StatusBlind i s t := by
  rw [h, loadPayload_eq] at ht
  cases ht
  exact statusBlind_of_kept hop rfl fun sa na tr il fi dv => (h _).trans (loadPayload_eq n x _)

theorem statusBlind_encT {x : Word} {s t : State} (ht : exec (.encT x) s = .next t) : StatusBlind (.encT x) s t := by
  intro sa na tr il fi dv
  obtain ⟨u, hu, -, hok, hsat, hnan⟩ := execEncT_next x s
  obtain rfl : u = t := Host.Outcome.next.inj (hu.symm.trans ht)
  obtain ⟨v, hv, -, hok', hsat', hnan'⟩ := execEncT_next x (withStatus sa na tr il fi dv s)
  refine ⟨v.sat, v.nan, tr, il, fi, dv, v.responses, ?_⟩
  cases houtcome : (encRaw x).2 with
  | ok =>
    obtain rfl := hok houtcome
    obtain rfl := hok' houtcome
    exact ⟨hv, statusBit_kept _ _, statusBit_kept _ _, statusBit_kept _ _, statusBit_kept _ _, statusBit_kept _ _,
      statusBit_kept _ _, fun _ _ => rfl, nofun⟩
  | sat =>
    obtain rfl := hsat houtcome
    obtain rfl := hsat' houtcome
    exact ⟨hv, statusBit_written _ _ _, statusBit_kept _ _, statusBit_kept _ _, statusBit_kept _ _,
      statusBit_kept _ _, statusBit_kept _ _, fun _ _ => rfl, nofun⟩
  | nan =>
    obtain rfl := hnan houtcome
    obtain rfl := hnan' houtcome
    exact ⟨hv, statusBit_kept _ _, statusBit_written _ _ _, statusBit_kept _ _, statusBit_kept _ _,
      statusBit_kept _ _, statusBit_kept _ _, fun _ _ => rfl, nofun⟩

theorem statusBlind_decT {x : Word} {s t : State} (ht : exec (.decT x) s = .next t) : StatusBlind (.decT x) s t := by
  intro sa na tr il fi dv
  by_cases hlen : s.len = 4#3
  · obtain rfl := Host.Outcome.next.inj ((execDecT_of_len_eq x hlen).symm.trans ht)
    exact ⟨sa, na, tr, il, fi, true, _, execDecT_of_len_eq x hlen, statusBit_kept _ _, statusBit_kept _ _,
      statusBit_kept _ _, statusBit_kept _ _, statusBit_kept _ _, statusBit_written _ _ _, fun _ _ => rfl, nofun⟩
  · obtain rfl := Host.Outcome.next.inj ((execDecT_of_len_ne x hlen).symm.trans ht)
    exact ⟨sa, na, true, il, fi, dv, _, execDecT_of_len_ne x hlen, statusBit_kept _ _, statusBit_kept _ _,
      statusBit_written _ _ _, statusBit_kept _ _, statusBit_kept _ _, statusBit_kept _ _, fun _ _ => rfl, nofun⟩

theorem statusBlind_ivTick {x : Word} {s t : State} (ht : exec (.ivTick x) s = .next t) :
    StatusBlind (.ivTick x) s t := by
  intro sa na tr il fi dv
  by_cases h : s.interval.toNat < (elapsed x s.last).toNat
  · obtain rfl := Host.Outcome.next.inj ((exec_ivTick_of_lt h).symm.trans ht)
    exact ⟨sa, na, tr, il, true, dv, _, exec_ivTick_of_lt (s := withStatus sa na tr il fi dv s) h, statusBit_kept _ _,
      statusBit_kept _ _, statusBit_kept _ _, statusBit_kept _ _, statusBit_written _ _ _, statusBit_kept _ _,
      fun _ _ => rfl, nofun⟩
  · obtain rfl := Host.Outcome.next.inj ((exec_ivTick_of_not_lt h).symm.trans ht)
    exact ⟨sa, na, tr, il, false, dv, _, exec_ivTick_of_not_lt (s := withStatus sa na tr il fi dv s) h,
      statusBit_kept _ _, statusBit_kept _ _, statusBit_kept _ _, statusBit_kept _ _, statusBit_written _ _ _,
      statusBit_kept _ _, fun _ _ => rfl, nofun⟩

/-- CLS clears by its mask alone and responds with the STATUS word after the clear. -/
theorem statusBlind_cls {x : Word} {s t : State} (ht : exec (.cls x) s = .next t) : StatusBlind (.cls x) s t := by
  intro sa na tr il fi dv
  cases ht
  exact ⟨_, _, _, _, fi, dv, _, rfl, statusBit_masked _ _ _, statusBit_masked _ _ _, statusBit_masked _ _ _,
    statusBit_masked _ _ _, statusBit_kept _ _, statusBit_kept _ _, fun _ h => absurd rfl h, fun _ => rfl⟩

/-- RDS keeps every bit and responds with the STATUS word. -/
theorem statusBlind_rds {x : Word} {s t : State} (ht : exec (.rds x) s = .next t) : StatusBlind (.rds x) s t := by
  intro sa na tr il fi dv
  cases ht
  exact ⟨sa, na, tr, il, fi, dv, _, rfl, statusBit_kept _ _, statusBit_kept _ _, statusBit_kept _ _,
    statusBit_kept _ _, statusBit_kept _ _, statusBit_kept _ _, fun h => absurd rfl h, fun _ => rfl⟩

/-- Settles O34, command by command: `statusBlind_of_kept` for those that touch no STATUS bit. -/
theorem noBehaviourDependsOnStatusBits : Obligations.NoBehaviourDependsOnStatusBits := by
  intro i s t sa na tr il fi dv ht
  suffices h : StatusBlind i s t from h sa na tr il fi dv
  cases i with
  | encT x => exact statusBlind_encT ht
  | decT x => exact statusBlind_decT ht
  | ldp0 x => exact statusBlind_loadPayload (n := 0) (x := x) (fun _ => rfl) (by simp [Instr.opcode]) ht
  | ldp1 x => exact statusBlind_loadPayload (n := 1) (x := x) (fun _ => rfl) (by simp [Instr.opcode]) ht
  | ldp2 x => exact statusBlind_loadPayload (n := 2) (x := x) (fun _ => rfl) (by simp [Instr.opcode]) ht
  | ldp3 x => exact statusBlind_loadPayload (n := 3) (x := x) (fun _ => rfl) (by simp [Instr.opcode]) ht
  | ldp4 x => exact statusBlind_loadPayload (n := 4) (x := x) (fun _ => rfl) (by simp [Instr.opcode]) ht
  | rdp x =>
    obtain rfl := Host.Outcome.next.inj ((execRdp_eq x s).symm.trans ht)
    exact statusBlind_of_kept (by simp [Instr.opcode]) rfl fun _ _ _ _ _ _ => execRdp_eq x _
  | rds x => exact statusBlind_rds ht
  | cls x => exact statusBlind_cls ht
  | ivTick x => exact statusBlind_ivTick ht
  | nop | rdc | rdf | ivSetI | ivSetL | ivRdI | ivRdL =>
    cases ht
    exact statusBlind_of_kept (by simp [Instr.opcode]) rfl fun _ _ _ _ _ _ => rfl

end Sys2Proof.Proofs

/-! ## The codec's arithmetic: rounding, saturation, monotony and the round trips (00_scope.md R11, 40_codec.md) -/

namespace Sys2Proof.Proofs

open Sys2Proof.Machine

/-! ### `roundHalfAway` is nearest, a tie away from zero -/

theorem roundHalfAway_neg (num : Int) (den : Nat) : roundHalfAway (-num) den = -roundHalfAway num den := by
  rcases lt_trichotomy num 0 with h | rfl | h
  · rw [roundHalfAway_of_nonneg (by omega), roundHalfAway_of_neg h, neg_neg]
  · rcases Nat.eq_zero_or_pos den with rfl | hden
    · simp [roundHalfAway]
    · simp [roundHalfAway, Nat.div_eq_of_lt (show den < 2 * den by omega)]
  · rw [roundHalfAway_of_neg (by omega), roundHalfAway_of_nonneg h.le, neg_neg]

/-- Where num is not negative, the rounded multiple of den is less than half of den below num, at most half above. -/
theorem roundHalfAway_bounds {num : Int} (hnum : 0 ≤ num) {den : Nat} (hden : 0 < den) :
    0 ≤ roundHalfAway num den ∧ 2 * (roundHalfAway num den * den - num) ≤ den ∧
      -(den : Int) < 2 * (roundHalfAway num den * den - num) := by
  rw [roundHalfAway_of_nonneg hnum]
  have hdiv := Int.mul_ediv_add_emod (2 * num + den) (2 * den)
  have hmod := Int.emod_nonneg (2 * num + (den : Int)) (show 2 * (den : Int) ≠ 0 by omega)
  have hmod' := Int.emod_lt_of_pos (2 * num + (den : Int)) (show 0 < 2 * (den : Int) by omega)
  refine ⟨Int.ediv_nonneg (by omega) (by omega), ?_, ?_⟩ <;> linarith

/-- The distances to num / den, multiplied by den, where num is not negative: any other multiple of den is on the far
side of num or a whole den further away, and only the one below can be equally near. -/
theorem roundHalfAway_nearest_of_nonneg {num : Int} (hnum : 0 ≤ num) {den : Nat} (hden : 0 < den) (k : Int) :
    |roundHalfAway num den * den - num| ≤ |k * den - num| ∧
      (|roundHalfAway num den * den - num| = |k * den - num| → |k| ≤ |roundHalfAway num den|) := by
  obtain ⟨hr, hlow, hhigh⟩ := roundHalfAway_bounds hnum hden
  generalize roundHalfAway num den = r at *
  have hnear : 2 * |r * den - num| ≤ den := by
    rw [← abs_two, ← abs_mul, abs_le]
    constructor <;> linarith
  rcases lt_trichotomy k r with hk | rfl | hk
  · have hstep : k * den ≤ (r - 1) * den := Int.mul_le_mul_of_nonneg_right (by omega) (by omega)
    have hfar : den - (r * den - num) ≤ |k * den - num| := by
      rw [abs_of_nonpos (by linarith)]
      linarith
    refine ⟨by linarith, fun htie => ?_⟩
    have hk0 : 0 ≤ k := by
      by_contra hneg
      have hstep' : k * den ≤ -1 * den := Int.mul_le_mul_of_nonneg_right (by omega) (by omega)
      rw [abs_of_nonpos (show k * den - num ≤ 0 by linarith)] at htie
      linarith
    rw [abs_of_nonneg hk0, abs_of_nonneg hr]
    exact hk.le
  · exact ⟨le_rfl, fun _ => le_rfl⟩
  · have hstep : (r + 1) * den ≤ k * den := Int.mul_le_mul_of_nonneg_right (by omega) (by omega)
    have hfar : |r * den - num| < |k * den - num| := by
      rw [abs_of_pos (show 0 < k * den - num by linarith), abs_lt]
      constructor <;> linarith
    exact ⟨hfar.le, fun htie => absurd htie hfar.ne⟩

/-- The same for every num: the rounding is odd. -/
theorem roundHalfAway_nearest (num : Int) {den : Nat} (hden : 0 < den) (k : Int) :
    |roundHalfAway num den * den - num| ≤ |k * den - num| ∧
      (|roundHalfAway num den * den - num| = |k * den - num| → |k| ≤ |roundHalfAway num den|) := by
  rcases le_total 0 num with hnum | hnum
  · exact roundHalfAway_nearest_of_nonneg hnum hden k
  · have hmirror : ∀ j : Int, |(-j) * den - -num| = |j * den - num| := fun j => by
      rw [neg_mul, ← neg_sub', abs_neg]
    have hnear := roundHalfAway_nearest_of_nonneg (neg_nonneg.mpr hnum) hden (-k)
    rwa [roundHalfAway_neg, hmirror, hmirror, abs_neg, abs_neg] at hnear

/-- Closer than half a unit to an integer, the rounding is that integer. -/
theorem roundHalfAway_eq {num r : Int} {den : Nat} (h : 2 * |r * den - num| < den) : roundHalfAway num den = r := by
  have hden : 0 < den := by have := abs_nonneg (r * den - num); omega
  obtain ⟨hnear, -⟩ := roundHalfAway_nearest num hden r
  have hclose : |(roundHalfAway num den - r) * den| < 1 * (den : Int) := by
    calc |(roundHalfAway num den - r) * den|
        = |(roundHalfAway num den * den - num) - (r * den - num)| := by ring_nf
      _ ≤ |roundHalfAway num den * den - num| + |r * den - num| := abs_sub _ _
      _ < 1 * den := by linarith
  rw [abs_mul, Nat.abs_cast] at hclose
  have := Int.abs_lt_one_iff.mp (lt_of_mul_lt_mul_right hclose (by omega))
  omega

theorem abs_intCast_sub_div (k num : Int) {den : Nat} (hden : 0 < den) :
    |(k : ℚ) - (num : ℚ) / den| = ((|k * den - num| : Int) : ℚ) / den := by
  have hpos : (0 : ℚ) < den := by exact_mod_cast hden
  rw [Int.cast_abs, ← abs_of_pos hpos, ← abs_div, abs_of_pos hpos]
  congr 1
  push_cast
  field_simp

/-- Settles O42: over the common denominator the distances are those of `roundHalfAway_nearest`. -/
theorem roundHalfAwayIsNearestAwayFromZero : Obligations.RoundHalfAwayIsNearestAwayFromZero := by
  intro num den hden k
  have hpos : (0 : ℚ) < den := by exact_mod_cast hden
  rw [abs_intCast_sub_div _ _ hden, abs_intCast_sub_div _ _ hden, div_le_div_iff_of_pos_right hpos,
    div_left_inj' hpos.ne', Int.cast_le, Int.cast_inj]
  exact roundHalfAway_nearest num hden k

/-! ### `rne32` on the range it is applied to -/

theorem rne32_zero (den : Nat) : rne32 0 den = 0x00000000#32 := by
  have hmag : rneMagnitude 0 den = 0 := by simp [rneMagnitude, roundHalfEven]
  rw [rne32, Int.natAbs_zero, hmag]
  rfl

/-- Settles O43: the range is far inside the one of `nearestBinary32_rne32`. -/
theorem rneIsNearestTiesToEven : Obligations.RneIsNearestTiesToEven :=
  ⟨fun _ _ hden hlo hhi => nearestBinary32_rne32 hden (by omega), rne32_zero⟩

/-! ### Monotony and saturation of `encRaw` -/

/-- The clamp as a minimum and a maximum. -/
theorem toNat_clampRaw (r : Int) : ((clampRaw r).1.toNat : Int) = max 0 (min r 65535) := by
  rw [clampRaw]
  split
  · simp only [BitVec.toNat_ofNat]; omega
  · split
    · dsimp only [Config.rawMax] at *; simp only [BitVec.toNat_ofNat]; omega
    · dsimp only [Config.rawMax] at *; rw [BitVec.toNat_ofInt]; omega

theorem clampRaw_mono {r q : Int} (h : r ≤ q) : (clampRaw r).1.toNat ≤ (clampRaw q).1.toNat := by
  have hr := toNat_clampRaw r
  have hq := toNat_clampRaw q
  omega

/-- Settles O45: the infinities are at the ends of the raw range, finite values by `roundedRaw_mono`. -/
theorem encodingIsMonotone : Obligations.EncodingIsMonotone := by
  intro a b hab
  have hmax : ∀ c : Word, (encRaw c).1.toNat ≤ 65535 := fun c => Nat.le_of_lt_succ (encRaw c).1.isLt
  cases ha : real a with
  | nan => rw [ha] at hab; exact hab.elim
  | negInf => rw [encRaw_of_negInf ha]; exact Nat.zero_le _
  | posInf =>
    cases hb : real b with
    | posInf => rw [encRaw_of_posInf hb]; exact hmax a
    | nan | negInf | finite => rw [ha, hb] at hab; exact hab.elim
  | finite n =>
    cases hb : real b with
    | posInf => rw [encRaw_of_posInf hb]; exact hmax a
    | nan | negInf => rw [ha, hb] at hab; exact hab.elim
    | finite m =>
      rw [ha, hb] at hab
      rw [encRaw_of_finite ha, encRaw_of_finite hb]
      exact clampRaw_mono (roundedRaw_mono hab)

/-- Below 0 from −1/2 on: the tie goes away from zero. -/
theorem roundHalfAwayRat_neg_iff (x : ℚ) : roundHalfAwayRat x < 0 ↔ x ≤ -1 / 2 := by
  unfold roundHalfAwayRat
  split
  · refine iff_of_false (not_lt.mpr (Int.floor_nonneg.mpr ?_)) ?_ <;> linarith
  · rw [← Int.le_sub_one_iff, Int.ceil_le]
    push_cast
    constructor <;> intro h <;> linarith

/-- Above 65535 from 65535.5 on. -/
theorem rawMax_lt_roundHalfAwayRat_iff (x : ℚ) : Config.rawMax < roundHalfAwayRat x ↔ 131071 / 2 ≤ x := by
  unfold roundHalfAwayRat Config.rawMax
  split
  · rw [← Int.add_one_le_iff, Int.le_floor]
    push_cast
    constructor <;> intro h <;> linarith
  · refine iff_of_false (not_lt.mpr (Int.ceil_le.mpr ?_)) ?_
    · push_cast
      linarith
    · linarith

theorem clampRaw_sat_iff (r : Int) : (clampRaw r).2 = .sat ↔ r < 0 ∨ Config.rawMax < r := by
  rw [clampRaw]
  split
  · exact iff_of_true rfl (.inl ‹_›)
  · split
    · exact iff_of_true rfl (.inr ‹_›)
    · exact iff_of_false nofun (not_or.mpr ⟨‹_›, ‹_›⟩)

/-- A finite value saturates at the low end from −200.005 down. -/
theorem roundedRaw_neg_iff (n : Int) : roundedRaw n < 0 ↔ ulpsToRat n ≤ -200005 / 1000 := by
  rw [← roundHalfAwayRat_scaled, roundHalfAwayRat_neg_iff]
  constructor <;> intro h <;> linarith

/-- A finite value saturates at the high end from 455.355 up. -/
theorem rawMax_lt_roundedRaw_iff (n : Int) : Config.rawMax < roundedRaw n ↔ 455355 / 1000 ≤ ulpsToRat n := by
  rw [← roundHalfAwayRat_scaled, rawMax_lt_roundHalfAwayRat_iff]
  constructor <;> intro h <;> linarith

/-- Settles O46: the clamp's two comparisons are those of `roundedRaw_neg_iff` and `rawMax_lt_roundedRaw_iff`. -/
theorem saturationHasTheseBoundaries : Obligations.SaturationHasTheseBoundaries := by
  intro b
  refine ⟨?saturates, ?low, ?high⟩
  case saturates =>
    cases hb : real b with
    | nan => simp [encRaw_of_nan hb]
    | posInf => simp [encRaw_of_posInf hb]
    | negInf => simp [encRaw_of_negInf hb]
    | finite n =>
      rw [encRaw_of_finite hb, clampRaw_sat_iff, roundedRaw_neg_iff, rawMax_lt_roundedRaw_iff]
      simp
  case low =>
    rintro (hb | ⟨n, hb, hle⟩)
    · exact encRaw_of_negInf hb
    · rw [encRaw_of_finite hb]
      exact clampRaw_of_neg ((roundedRaw_neg_iff n).mpr hle)
  case high =>
    rintro (hb | ⟨n, hb, hle⟩)
    · exact encRaw_of_posInf hb
    · rw [encRaw_of_finite hb]
      exact clampRaw_of_gt ((rawMax_lt_roundedRaw_iff n).mpr hle)

/-! ### The error of `rne32` -/

theorem two_mul_roundHalfEven_sub_le (num : Nat) {den : Nat} (hden : 0 < den) :
    2 * |(roundHalfEven num den : Int) * den - num| ≤ den := by
  have hlt : num % den < den := Nat.mod_lt num hden
  have hround := distance_cases num hden (roundHalfEven num den)
  rcases roundHalfEven_cases num den with ⟨hr, hq⟩ | ⟨hr, hq⟩ | ⟨hr, hq⟩ <;> omega

/-- The rounded significand is within half a last place, and that is a 2^(-24)th of the value, or half of 2^(-149). -/
theorem roundedUlps_error (num : Nat) {den : Nat} (hden : 0 < den) :
    2 ^ 24 * ulpDistance num den (roundedUlps num den) ≤ num * ulpDenominator + 2 ^ 23 * den := by
  have hcast : (roundedUlps num den : Int) = significand num den * 2 ^ binade num den := by
    rw [roundedUlps, Nat.cast_mul, Nat.cast_pow, Nat.cast_ofNat]
  have hround := two_mul_roundHalfEven_sub_le (num * ulpDenominator)
    (show 0 < den * 2 ^ binade num den by positivity)
  rw [hcast, ulpDistance_mul_two_pow]
  have hplace : 2 ^ 23 * (den * 2 ^ binade num den) ≤ num * ulpDenominator + 2 ^ 23 * den := by
    by_cases hbinade : binade num den = 0
    · rw [hbinade, pow_zero, Nat.mul_one]
      exact Nat.le_add_left _ _
    · exact (two_pow_le_of_binade hden hbinade).trans (Nat.le_add_right _ _)
  have hplace' : (2 : Int) ^ 23 * (den * 2 ^ binade num den : Nat) ≤ num * ulpDenominator + 2 ^ 23 * den := by
    exact_mod_cast hplace
  rw [← significand] at hround
  linarith

/-- The value of `rne32`, well below the largest finite one. -/
theorem real_rne32 {num : Int} {den : Nat} (hden : 0 < den) (h : num.natAbs < 2 ^ 64 * den) :
    real (rne32 num den) = .finite (signedInt (decide (num < 0)) (roundedUlps num.natAbs den)) := by
  obtain ⟨heq, hlt⟩ := rneMagnitude_of_lt hden h
  rw [real_of_magnitudeField_lt (by rwa [magnitudeField_rne32]), magnitudeField_rne32, getLsbD_31_rne32, heq,
    ulpCount_binade (significand_le _ hden) (le_significand hden), roundedUlps]

/-- The relative error of `rne32` is at most 2^(-24), but for an absolute 2^(-150) (00_scope.md R11). -/
theorem rne32_error {num n : Int} {den : Nat} (hden : 0 < den) (h : num.natAbs < 2 ^ 64 * den)
    (hn : real (rne32 num den) = .finite n) :
    2 ^ 24 * ulpDistance num den n ≤ num.natAbs * ulpDenominator + 2 ^ 23 * den := by
  rw [real_rne32 hden h] at hn
  cases hn
  have herror := roundedUlps_error num.natAbs hden
  by_cases hneg : num < 0
  · rw [decide_eq_true hneg, signedInt_true, ← ulpDistance_neg, neg_neg, ← Int.ofNat_natAbs_of_nonpos hneg.le]
    exact herror
  · rw [Int.natAbs_of_nonneg (not_lt.mp hneg)] at herror ⊢
    rw [decide_eq_false hneg, signedInt_false]
    exact herror

/-! ### Two decimals survive (40_codec.md section 5) -/

/-- The binary32 of k / 100 is off by less than 2^(-15), which (v + 200) * 100 keeps far below half a unit. -/
theorem roundedRaw_of_rne32_centi {k n : Int} (hlo : -20000 ≤ k) (hhi : k ≤ 45535)
    (hn : real (rne32 k 100) = .finite n) : roundedRaw n = k + 20000 := by
  have herror := rne32_error (by decide) (by omega) hn
  have habs : |k| ≤ 45535 := abs_le.mpr ⟨by omega, hhi⟩
  refine roundHalfAway_eq ?_
  have hdist : |(k + 20000) * (ulpDenominator : Int) - (n + Config.tempOffsetC * ulpDenominator) * Config.tempScale| =
      ulpDistance k 100 n := by
    rw [ulpDistance, ← abs_neg]
    dsimp only [Config.tempOffsetC, Config.tempScale]
    congr 1
    push_cast
    ring
  rw [hdist]
  generalize ulpDistance k 100 n = e at herror ⊢
  norm_num [ulpDenominator] at herror ⊢
  omega

theorem clampRaw_of_mem {r : Int} (h0 : 0 ≤ r) (h : r ≤ 65535) : clampRaw r = (BitVec.ofInt 16 r, .ok) := by
  rw [clampRaw, if_neg (not_lt.mpr h0), if_neg (not_lt.mpr h)]

/-- Settles O48, by `roundedRaw_of_rne32_centi`. -/
theorem encoderIsExactOnCenti : Obligations.EncoderIsExactOnCenti := by
  intro k hlo hhi
  have hn := real_rne32 (num := k) (den := 100) (by decide) (by omega)
  rw [encRaw_of_finite hn, roundedRaw_of_rne32_centi hlo hhi hn]
  exact clampRaw_of_mem (by omega) (by omega)

/-- The raw value of k hundredths decodes to k. -/
theorem decCenti_ofInt {k : Int} (hlo : -20000 ≤ k) (hhi : k ≤ 45535) : decCenti (BitVec.ofInt 16 (k + 20000)) = k := by
  dsimp only [decCenti, Config.tempOffsetRaw]
  rw [BitVec.toNat_ofInt]
  omega

/-- TEMP_RAW after ENC.T is the raw value. -/
theorem tempRaw_encoded (x : Word) (s : State) : (encoded x s).tempRaw = (encRaw x).1 := by
  have hbyte : ∀ a, a < 4 → (encoded x s).payload.lookup a =
      ((encRaw x).1 ++ 0x0000#16 : Word).extractLsb' (24 - 8 * a) 8 := fun a ha =>
    lookup_storeAll_bytesOf s.payload _ a ha
  rw [State.tempRaw, hbyte 0 (by decide), hbyte 1 (by decide)]
  exact (BitVec.extractLsb'_append_extractLsb'_eq_extractLsb' (by rfl)).trans (extractLsb'_append_high _ _)

/-- ENC.T with outcome OK. -/
theorem exec_encT_ok {x : Word} {raw : Raw} (h : encRaw x = (raw, .ok)) (s : State) :
    exec (.encT x) s = .next ((encoded x s).appendResponse (responseWord .ok (raw.setWidth 32))) := by
  obtain ⟨t, ht, -, hok, -, -⟩ := execEncT_next x s
  rw [h] at hok
  rw [← hok rfl]
  exact ht

/-- Settles O49: ENC.T leaves the raw value of k hundredths in TEMP_RAW with LEN = 4, and DEC.T decodes that. -/
theorem decodeAfterEncodeIsExact : Obligations.DecodeAfterEncodeIsExact := by
  intro k x s hlo hhi
  have henc := encoderIsExactOnCenti k hlo hhi
  have hraw : (encoded (rne32 k 100) s).tempRaw = BitVec.ofInt 16 (k + 20000) := by rw [tempRaw_encoded, henc]
  have hcenti : decCenti (encoded (rne32 k 100) s).tempRaw = k := by rw [hraw, decCenti_ofInt hlo hhi]
  have hdata : (BitVec.ofInt 16 (k + 20000)).setWidth 32 = BitVec.ofInt 32 (k + 20000) := by
    apply BitVec.eq_of_toNat_eq
    rw [BitVec.toNat_setWidth_of_le (by decide), BitVec.toNat_ofInt, BitVec.toNat_ofInt]
    omega
  refine ⟨_, runCommands_pair (exec_encT_ok henc s) (execDecT_of_len_eq x rfl), ?_, ?_, rfl, ?_⟩
  · exact congrArg (rne32 · 100) hcenti
  · exact congrArg s32 hcenti
  · rw [hdata]
    exact (List.append_assoc _ _ _).trans (congrArg (fun c => s.responses ++ [_, responseWord .ok (s32 c)]) hcenti)

/-- A raw value is read back from the binary32 it decodes to. -/
theorem encRaw_decF32 (raw : Raw) : encRaw (decF32 raw) = (raw, .ok) := by
  obtain ⟨hlo, hhi⟩ := decCenti_range raw
  have hraw : decCenti raw + 20000 = raw.toNat := by
    dsimp only [decCenti, Config.tempOffsetRaw]
    omega
  rw [decF32, encoderIsExactOnCenti _ hlo hhi, hraw, BitVec.ofInt_natCast, BitVec.ofNat_toNat, BitVec.setWidth_eq]

/-- Settles O50: DEC.T with LEN = 4 decodes TEMP_RAW, which `encRaw_decF32` gives back. -/
theorem encodeAfterDecodeIsExact : Obligations.EncodeAfterDecodeIsExact := by
  intro x s t hlen ht
  obtain rfl := Host.Outcome.next.inj ((execDecT_of_len_eq x hlen).symm.trans ht)
  have henc := encRaw_decF32 s.tempRaw
  refine ⟨_, exec_encT_ok henc _, ?_, ?_⟩
  · exact (tempRaw_encoded _ _).trans (congrArg Prod.fst henc)
  · rw [← setWidth_32_eq_append]
    rfl

end Sys2Proof.Proofs

/-! ## Agreement with binary64 (40_codec.md R68, log entry 10) -/

namespace Sys2Proof.Proofs

open Sys2Proof.Machine

/-! ### `roundBinary64`: its error, and the dyadic numbers it leaves as they are -/

theorem abs_roundHalfEvenRat_sub_le (y : ℚ) : |(roundHalfEvenRat y : ℚ) - y| ≤ 1 / 2 := by
  have hlo := Int.floor_le y
  have hhi := Int.lt_floor_add_one y
  unfold roundHalfEvenRat
  split
  · rw [abs_le]
    constructor <;> linarith
  · split
    · rw [abs_le]
      push_cast
      constructor <;> linarith
    · have htie : y - ⌊y⌋ = 1 / 2 := le_antisymm (not_lt.mp ‹_›) (not_lt.mp ‹_›)
      rcases Int.emod_two_eq_zero_or_one ⌊y⌋ with hpar | hpar <;>
      · rw [hpar, abs_le]
        push_cast
        constructor <;> linarith

theorem roundHalfEvenRat_intCast (k : ℤ) : roundHalfEvenRat k = k := by
  simp [roundHalfEvenRat]

/-- The exponent of the last place of the binary64 nearest to `x`. -/
def unitExponent (x : ℚ) : ℤ := max (Int.log 2 |x| - 52) (-1074)

theorem roundBinary64_eq (x : ℚ) :
    roundBinary64 x = (roundHalfEvenRat (x / 2 ^ unitExponent x) : ℚ) * 2 ^ unitExponent x := rfl

/-- The last place is at most a 2^(-52)th of the value, or of 1. -/
theorem two_zpow_unitExponent_le (x : ℚ) : (2 : ℚ) ^ unitExponent x ≤ (|x| + 1) / 2 ^ 52 := by
  have hsub : (2 : ℚ) ^ (-1074 : ℤ) ≤ (|x| + 1) / 2 ^ 52 := by
    calc (2 : ℚ) ^ (-1074 : ℤ) ≤ 2 ^ (-52 : ℤ) := zpow_le_zpow_right₀ one_le_two (by norm_num)
      _ = 1 / 2 ^ 52 := by norm_num [zpow_neg]
      _ ≤ (|x| + 1) / 2 ^ 52 := by gcongr; linarith [abs_nonneg x]
  have hnormal : (2 : ℚ) ^ (Int.log 2 |x| - 52) ≤ (|x| + 1) / 2 ^ 52 := by
    have hlog : (2 : ℚ) ^ Int.log 2 |x| ≤ |x| + 1 := by
      rcases eq_or_ne x 0 with rfl | hx
      · simp
      · exact (Int.zpow_log_le_self one_lt_two (abs_pos.mpr hx)).trans (by linarith)
    rw [zpow_sub₀ two_ne_zero]
    exact div_le_div_of_nonneg_right hlog (by positivity)
  rcases max_choice (Int.log 2 |x| - 52) (-1074) with h | h
  · rwa [unitExponent, h]
  · rwa [unitExponent, h]

/-- A binary64 operation is off by at most half a last place. -/
theorem abs_roundBinary64_sub_le (x : ℚ) : |roundBinary64 x - x| ≤ (|x| + 1) / 2 ^ 53 := by
  have hpos : (0 : ℚ) < 2 ^ unitExponent x := by positivity
  have hunit := two_zpow_unitExponent_le x
  rw [roundBinary64_eq]
  generalize (2 : ℚ) ^ unitExponent x = u at hpos hunit
  have hround := abs_roundHalfEvenRat_sub_le (x / u)
  calc |(roundHalfEvenRat (x / u) : ℚ) * u - x|
      = |(roundHalfEvenRat (x / u) : ℚ) - x / u| * u := by
        rw [← abs_of_pos hpos, ← abs_mul, abs_of_pos hpos, sub_mul, div_mul_cancel₀ x hpos.ne']
    _ ≤ 1 / 2 * u := mul_le_mul_of_nonneg_right hround hpos.le
    _ ≤ (|x| + 1) / 2 ^ 53 := by linarith

/-- An integer of at most 53 bits over a power of two is a binary64 number. -/
theorem roundBinary64_dyadic {m : ℤ} {k : ℕ} (hm : |m| < 2 ^ 53) (hk : k ≤ 1074) :
    roundBinary64 ((m : ℚ) / 2 ^ k) = (m : ℚ) / 2 ^ k := by
  rcases eq_or_ne m 0 with rfl | hm0
  · simp [roundBinary64_eq, show roundHalfEvenRat 0 = 0 from roundHalfEvenRat_intCast 0]
  set x : ℚ := (m : ℚ) / 2 ^ k with hx
  have hlog : Int.log 2 |x| < 53 - k := by
    have hpos : 0 < |x| := abs_pos.mpr (by positivity)
    rw [← Int.lt_zpow_iff_log_lt one_lt_two hpos, hx, abs_div, abs_of_pos (show (0 : ℚ) < 2 ^ k by positivity),
      zpow_sub₀ (by norm_num), zpow_natCast]
    have hm' : |(m : ℚ)| < 2 ^ (53 : ℤ) := by exact_mod_cast hm
    exact div_lt_div_of_pos_right hm' (by positivity)
  obtain ⟨j, hj⟩ : ∃ j : ℕ, (j : ℤ) = -k - unitExponent x :=
    ⟨(-k - unitExponent x).toNat, Int.toNat_of_nonneg (by unfold unitExponent; omega)⟩
  have hwhole : x / 2 ^ unitExponent x = ((m * 2 ^ j : ℤ) : ℚ) := by
    push_cast
    rw [hx, ← zpow_natCast (2 : ℚ) j, hj, zpow_sub₀ two_ne_zero, zpow_neg, zpow_natCast]
    ring
  rw [roundBinary64_eq, hwhole, roundHalfEvenRat_intCast, ← hwhole, div_mul_cancel₀ x (by positivity)]

/-! ### The encoder in binary64 -/

theorem roundHalfAwayRat_eq {x : ℚ} {r : ℤ} (h : |x - r| < 1 / 2) : roundHalfAwayRat x = r := by
  obtain ⟨hlo, hhi⟩ := abs_lt.mp h
  unfold roundHalfAwayRat
  split
  · rw [Int.floor_eq_iff]
    constructor <;> linarith
  · rw [Int.ceil_eq_iff]
    constructor <;> linarith

/-- A pattern of magnitude at least 2^(j-126) is a whole multiple of 2^(j-149). -/
theorem two_pow_dvd_of_real {b : Word} {n : ℤ} (hb : real b = .finite n) {j : ℕ} (h : 2 ^ 23 * 2 ^ j ≤ |n|) :
    (2 : ℤ) ^ j ∣ n := by
  rw [real_of_magnitudeField_lt (magnitudeField_lt_of_finite hb)] at hb
  cases hb
  rw [Int.abs_eq_natAbs, natAbs_signedInt] at h
  have hdvd : 2 ^ j ∣ ulpCount (magnitudeField b) := two_pow_dvd_ulpCount (by exact_mod_cast h)
  rw [← Int.dvd_natAbs, natAbs_signedInt]
  exact_mod_cast hdvd

/-- A pattern whose value is at least 2^(j-126) in magnitude, as an integer over 2^(149-j). -/
theorem ulpsToRat_eq_dyadic {b : Word} {n : ℤ} (hb : real b = .finite n) {j i : ℕ} (hij : j + i = 149)
    (h : (2 : ℚ) ^ 23 / 2 ^ i ≤ |ulpsToRat n|) : ∃ m : ℤ, ulpsToRat n = (m : ℚ) / 2 ^ i := by
  have hulps : ∀ k : ℤ, ulpsToRat k = (k : ℚ) / (2 ^ j * 2 ^ i) := fun k => by
    rw [ulpsToRat, ← pow_add, hij, zpow_neg, div_eq_mul_inv]
    rfl
  have hn : 2 ^ 23 * 2 ^ j ≤ |n| := by
    rw [hulps, abs_div, abs_of_pos (show (0 : ℚ) < 2 ^ j * 2 ^ i by positivity), div_le_div_iff₀ (by positivity)
      (by positivity)] at h
    have hcancel : (2 : ℚ) ^ 23 * 2 ^ j ≤ |(n : ℚ)| := by
      refine le_of_mul_le_mul_right ?_ (show (0 : ℚ) < 2 ^ i by positivity)
      linarith
    exact_mod_cast hcancel
  obtain ⟨m, rfl⟩ := two_pow_dvd_of_real hb hn
  refine ⟨m, ?_⟩
  rw [hulps]
  push_cast
  field_simp

/-- The two binary64 operations of the encoder, both rounded. -/
def scaledDouble (v : ℚ) : ℚ := roundBinary64 (roundBinary64 (v + 200) * 100)

/-- From 1/256 to 1024 both operations are exact: 31 places after the point suffice. -/
theorem scaledDouble_exact {v : ℚ} {m : ℤ} (hv : v = (m : ℚ) / 2 ^ 31) (h : |v| ≤ 1024) :
    scaledDouble v = (v + 200) * 100 := by
  have hm : |m| ≤ 2 ^ 41 := by
    rw [hv, abs_div, abs_of_pos (show (0 : ℚ) < 2 ^ 31 by positivity), div_le_iff₀ (by positivity)] at h
    have hm : |(m : ℚ)| ≤ 2 ^ 41 := by linarith
    exact_mod_cast hm
  obtain ⟨hlo, hhi⟩ := abs_le.mp hm
  have hsum : v + 200 = ((m + 200 * 2 ^ 31 : ℤ) : ℚ) / 2 ^ 31 := by
    rw [hv]
    push_cast
    ring
  have hprod : (v + 200) * 100 = (((m + 200 * 2 ^ 31) * 100 : ℤ) : ℚ) / 2 ^ 31 := by
    rw [hsum]
    push_cast
    ring
  have hexact : roundBinary64 (v + 200) = v + 200 := by
    rw [hsum]
    exact roundBinary64_dyadic (abs_lt.mpr (by omega)) (by decide)
  rw [scaledDouble, hexact, hprod]
  exact roundBinary64_dyadic (abs_lt.mpr (by omega)) (by decide)

/-- Elsewhere the two errors together stay small against the value. -/
theorem abs_scaledDouble_sub_le (v : ℚ) : |scaledDouble v - (v + 200) * 100| ≤ (|v| + 300) / 2 ^ 40 := by
  have hsum := abs_roundBinary64_sub_le (v + 200)
  have hprod := abs_roundBinary64_sub_le (roundBinary64 (v + 200) * 100)
  rw [← scaledDouble] at hprod
  generalize scaledDouble v = z at *
  generalize roundBinary64 (v + 200) = y at *
  have hv : |v + 200| ≤ |v| + 200 := (abs_add_le v 200).trans (by norm_num)
  have hy : |y| ≤ |v + 200| + |y - (v + 200)| := by
    calc |y| = |(v + 200) + (y - (v + 200))| := by ring_nf
      _ ≤ _ := abs_add_le _ _
  have hscale : |y * 100| = |y| * 100 := by rw [abs_mul]; norm_num
  have hscale' : |y * 100 - (v + 200) * 100| = |y - (v + 200)| * 100 := by
    rw [← sub_mul, abs_mul]
    norm_num
  calc |z - (v + 200) * 100|
      = |(z - y * 100) + (y * 100 - (v + 200) * 100)| := by ring_nf
    _ ≤ |z - y * 100| + |y * 100 - (v + 200) * 100| := abs_add_le _ _
    _ ≤ (|v| + 300) / 2 ^ 40 := by
      rw [hscale']
      rw [hscale] at hprod
      linarith [abs_nonneg v]

/-- A pattern's value scaled in binary64 and exactly rounds, and clamps, to the same raw value: near 0 both round to
20000, up to 1024 binary64 is exact, and beyond both saturate. -/
theorem clampRaw_scaledDouble {b : Word} {n : ℤ} (hb : real b = .finite n) :
    clampRaw (roundHalfAwayRat (scaledDouble (ulpsToRat n))) =
      clampRaw (roundHalfAwayRat ((ulpsToRat n + 200) * 100)) := by
  have herror := abs_scaledDouble_sub_le (ulpsToRat n)
  rcases le_total |ulpsToRat n| (1 / 256) with hsmall | hlarge
  · obtain ⟨hlo, hhi⟩ := abs_le.mp hsmall
    obtain ⟨hlo', hhi'⟩ := abs_le.mp herror
    have hexact : roundHalfAwayRat ((ulpsToRat n + 200) * 100) = 20000 :=
      roundHalfAwayRat_eq (by rw [abs_lt]; push_cast; constructor <;> linarith)
    have hdouble : roundHalfAwayRat (scaledDouble (ulpsToRat n)) = 20000 :=
      roundHalfAwayRat_eq (by rw [abs_lt]; push_cast; constructor <;> linarith)
    rw [hexact, hdouble]
  rcases le_total |ulpsToRat n| 1024 with hmid | hbig
  · obtain ⟨m, hm⟩ := ulpsToRat_eq_dyadic hb (j := 118) (i := 31) rfl (hlarge.trans' (by norm_num))
    rw [scaledDouble_exact hm hmid]
  · obtain ⟨hlo', hhi'⟩ := abs_le.mp herror
    rcases abs_cases (ulpsToRat n) with ⟨habs, -⟩ | ⟨habs, -⟩
    · rw [habs] at hbig hlo' hhi'
      rw [clampRaw_of_gt ((rawMax_lt_roundHalfAwayRat_iff _).mpr (by linarith)),
        clampRaw_of_gt ((rawMax_lt_roundHalfAwayRat_iff _).mpr (by linarith))]
    · rw [habs] at hbig hlo' hhi'
      rw [clampRaw_of_neg ((roundHalfAwayRat_neg_iff _).mpr (by linarith)),
        clampRaw_of_neg ((roundHalfAwayRat_neg_iff _).mpr (by linarith))]

/-- Settles O51, by `clampRaw_scaledDouble`. -/
theorem encoderAgreesWithDoublePrecision : Obligations.EncoderAgreesWithDoublePrecision := by
  intro b n hb
  rw [encRaw_of_finite hb, ← roundHalfAwayRat_scaled]
  exact (clampRaw_scaledDouble hb).symm

end Sys2Proof.Proofs

/-! ## The decoder in binary64 (40_codec.md R68, log entry 10) -/

namespace Sys2Proof.Proofs

open Sys2Proof.Machine

/-! ### `rne32` depends on the rational alone -/

theorem roundHalfEven_mul_left {c : ℕ} (hc : 0 < c) (num den : ℕ) :
    roundHalfEven (c * num) (c * den) = roundHalfEven num den := by
  have hlt : ∀ a b : ℕ, 2 * (c * a) < c * b ↔ 2 * a < b := fun a b => by
    rw [Nat.mul_left_comm]
    exact Nat.mul_lt_mul_left hc
  have hlt' : ∀ a b : ℕ, c * b < 2 * (c * a) ↔ b < 2 * a := fun a b => by
    rw [Nat.mul_left_comm]
    exact Nat.mul_lt_mul_left hc
  simp only [roundHalfEven, Nat.mul_div_mul_left _ _ hc, Nat.mul_mod_mul_left, hlt, hlt']

theorem rne32_mul_left {c : ℕ} (hc : 0 < c) (num : ℤ) (den : ℕ) : rne32 (c * num) (c * den) = rne32 num den := by
  have hmag : rneMagnitude (c * num.natAbs) (c * den) = rneMagnitude num.natAbs den := by
    simp only [rneMagnitude, Nat.mul_assoc, Nat.mul_div_mul_left _ _ hc, roundHalfEven_mul_left hc]
  have hsign : (c : ℤ) * num < 0 ↔ num < 0 := by
    have hpos : (0 : ℤ) < c := by exact_mod_cast hc
    exact ⟨fun h => neg_of_mul_neg_right h hpos.le, mul_neg_of_pos_of_neg hpos⟩
  rw [rne32, rne32, Int.natAbs_mul, Int.natAbs_natCast, hmag]
  simp only [hsign]

/-- A rational's own numerator and denominator are as good as any. -/
theorem rne32_num_den (num : ℤ) {den : ℕ} (hden : 0 < den) {x : ℚ} (hx : x = (num : ℚ) / den) :
    rne32 x.num x.den = rne32 num den := by
  obtain ⟨c, hnum, hden'⟩ := Rat.exists_eq_mul_div_num_and_eq_mul_div_den num (show (den : ℤ) ≠ 0 by omega)
  rw [Int.cast_natCast, ← hx] at hnum hden'
  have hmul : 0 < c * (x.den : ℤ) := by
    rw [← hden']
    exact_mod_cast hden
  have hc : 0 < c := (pos_iff_pos_of_mul_pos hmul).mpr (by exact_mod_cast x.den_pos)
  obtain ⟨a, rfl⟩ := Int.eq_ofNat_of_zero_le hc.le
  have hden'' : den = a * x.den := by exact_mod_cast hden'
  calc rne32 x.num x.den = rne32 (a * x.num) (a * x.den) := (rne32_mul_left (by exact_mod_cast hc) _ _).symm
    _ = rne32 num den := by rw [← hnum, ← hden'']

/-! ### A nonzero value has one pattern -/

theorem ulpCount_succ (k : ℕ) : ulpCount (k + 1) = ulpCount k + 2 ^ (k / 2 ^ 23 - 1) := by
  by_cases hsub : k + 1 < 2 ^ 23
  · rw [ulpCount, ulpCount, if_pos hsub, if_pos (by omega), Nat.div_eq_of_lt (by omega)]
    rfl
  by_cases hlast : k < 2 ^ 23
  · obtain rfl : k = 2 ^ 23 - 1 := by omega
    decide
  rw [ulpCount, ulpCount, if_neg hsub, if_neg hlast, ← Nat.succ_mul]
  by_cases hcarry : (k + 1) % 2 ^ 23 = 0
  · have hexp : (k + 1) / 2 ^ 23 - 1 = k / 2 ^ 23 - 1 + 1 := by omega
    have hfrac : (2 ^ 23 + k % 2 ^ 23).succ = 2 * 2 ^ 23 := by omega
    rw [hcarry, hexp, hfrac]
    ring
  · have hexp : (k + 1) / 2 ^ 23 = k / 2 ^ 23 := by omega
    have hfrac : 2 ^ 23 + (k + 1) % 2 ^ 23 = (2 ^ 23 + k % 2 ^ 23).succ := by omega
    rw [hexp, hfrac]

theorem ulpCount_strictMono : StrictMono ulpCount := strictMono_nat_of_lt_succ fun k => by
  rw [ulpCount_succ]
  exact Nat.lt_add_of_pos_right (by positivity)

theorem signedInt_inj {p q : Bool} {k l : ℕ} (h : signedInt p k = signedInt q l) (h0 : signedInt p k ≠ 0) :
    p = q ∧ k = l := by
  cases p <;> cases q <;> simp at h h0 ⊢ <;> omega

theorem eq_of_real_eq {b c : Word} {n : ℤ} (hb : real b = .finite n) (hc : real c = .finite n) (hn : n ≠ 0) :
    b = c := by
  rw [real_of_magnitudeField_lt (magnitudeField_lt_of_finite hb)] at hb
  rw [real_of_magnitudeField_lt (magnitudeField_lt_of_finite hc)] at hc
  have hvalue := (Real32.finite.inj hb).trans (Real32.finite.inj hc).symm
  obtain ⟨hsign, hcount⟩ := signedInt_inj hvalue (Real32.finite.inj hb ▸ hn)
  have hfield := ulpCount_strictMono.injective hcount
  rw [getLsbD_31_eq, getLsbD_31_eq, decide_eq_decide] at hsign
  rw [magnitudeField_eq_mod, magnitudeField_eq_mod] at hfield
  exact BitVec.eq_of_toNat_eq (by omega)

/-! ### The decoder's double is close to the exact value, and equal to it on whole quarters -/

/-- The two binary64 operations of the decoder, both rounded. -/
def decodedDouble (raw : ℤ) : ℚ := roundBinary64 (roundBinary64 ((raw : ℚ) / 100) - 200)

theorem decF32Double_eq (raw : Raw) :
    decF32Double raw = rne32 (decodedDouble raw.toNat).num (decodedDouble raw.toNat).den := by
  simp [decF32Double, decodedDouble]

/-- The two errors together, for values up to 2^16 hundredths. -/
theorem abs_decodedDouble_sub_lt {raw : ℤ} (h0 : 0 ≤ raw) (h : raw ≤ 65535) :
    |decodedDouble raw - ((raw - 20000 : ℤ) : ℚ) / 100| < 1 / 2 ^ 40 := by
  have hquot := abs_roundBinary64_sub_le ((raw : ℚ) / 100)
  have hdiff := abs_roundBinary64_sub_le (roundBinary64 ((raw : ℚ) / 100) - 200)
  rw [← decodedDouble] at hdiff
  generalize decodedDouble raw = d at *
  generalize roundBinary64 ((raw : ℚ) / 100) = q at *
  have h0' : (0 : ℚ) ≤ raw := by exact_mod_cast h0
  have h' : (raw : ℚ) ≤ 65535 := by exact_mod_cast h
  rw [abs_of_nonneg (show (0 : ℚ) ≤ raw / 100 by positivity)] at hquot
  obtain ⟨hqlo, hqhi⟩ := abs_le.mp (hquot.trans (show ((raw : ℚ) / 100 + 1) / 2 ^ 53 ≤ 1 / 2 ^ 42 by linarith))
  have hq : |q - 200| ≤ 1000 := abs_le.mpr ⟨by linarith, by linarith⟩
  obtain ⟨hdlo, hdhi⟩ := abs_le.mp hdiff
  rw [abs_lt]
  push_cast
  constructor <;> linarith

/-- A whole number of quarters is computed exactly. -/
theorem decodedDouble_of_dvd {raw : ℤ} (h0 : 0 ≤ raw) (h : raw ≤ 65535) (hdvd : (25 : ℤ) ∣ raw) :
    decodedDouble raw = ((raw - 20000 : ℤ) : ℚ) / 100 := by
  obtain ⟨c, rfl⟩ := hdvd
  have hquot : (((25 * c : ℤ) : ℚ)) / 100 = (c : ℚ) / 2 ^ 2 := by
    push_cast
    ring
  have hdiff : (c : ℚ) / 2 ^ 2 - 200 = ((c - 800 : ℤ) : ℚ) / 2 ^ 2 := by
    push_cast
    ring
  rw [decodedDouble, hquot, roundBinary64_dyadic (abs_lt.mpr (by omega)) (by decide), hdiff,
    roundBinary64_dyadic (abs_lt.mpr (by omega)) (by decide)]
  push_cast
  ring

/-! ### No rounding boundary lies between them -/

/-- The pattern nearest to a value of at least 1/128 is itself at least that: 1/128 is a binary32 value. -/
theorem le_abs_nearest {x : ℚ} {n : ℤ}
    (hnear : ∀ c m, real c = .finite m → |ulpsToRat n - x| ≤ |ulpsToRat m - x|) (h : 1 / 128 ≤ |x|) :
    1 / 128 ≤ |ulpsToRat n| := by
  have hpos := hnear 0x3C000000#32 (2 ^ 142) (by decide)
  have hneg := hnear 0xBC000000#32 (-2 ^ 142) (by decide)
  rw [show ulpsToRat (2 ^ 142) = 1 / 128 by norm_num [ulpsToRat, zpow_neg]] at hpos
  rw [show ulpsToRat (-2 ^ 142) = -1 / 128 by norm_num [ulpsToRat, zpow_neg]] at hneg
  generalize ulpsToRat n = v at *
  rcases abs_cases x with ⟨habs, -⟩ | ⟨habs, -⟩
  · rw [habs] at h
    rw [abs_of_nonpos (show 1 / 128 - x ≤ 0 by linarith)] at hpos
    linarith [le_abs_self v, neg_abs_le (v - x)]
  · rw [habs] at h
    rw [abs_of_nonneg (show 0 ≤ -1 / 128 - x by linarith)] at hneg
    linarith [neg_abs_le v, le_abs_self (v - x)]

theorem ulpsToRat_injective : Function.Injective ulpsToRat := fun _ _ h =>
  Int.cast_injective (mul_right_cancel₀ (zpow_ne_zero _ two_ne_zero) h)

/-- Two values, the one nearest to `x` and the other to `d`: the midpoint lies between `x` and `d`. -/
theorem abs_add_sub_le_of_nearest {v w x d : ℚ} (hvw : v ≠ w) (hv : |v - x| ≤ |w - x|) (hw : |w - d| ≤ |v - d|) :
    |v + w - 2 * x| ≤ 2 * |d - x| := by
  have hx : 0 ≤ (w - v) * (v + w - 2 * x) := by linarith [sq_le_sq.mpr hv]
  have hd : 0 ≤ (v - w) * (v + w - 2 * d) := by linarith [sq_le_sq.mpr hw]
  rcases lt_or_gt_of_ne hvw with hlt | hlt
  · have hx' := nonneg_of_mul_nonneg_right hx (sub_pos.mpr hlt)
    have hd' := nonpos_of_mul_nonneg_right hd (sub_neg.mpr hlt)
    rw [abs_of_nonneg hx']
    linarith [le_abs_self (d - x)]
  · have hx' := nonpos_of_mul_nonneg_right hx (sub_neg.mpr hlt)
    have hd' := nonneg_of_mul_nonneg_right hd (sub_pos.mpr hlt)
    rw [abs_of_nonpos hx']
    linarith [neg_abs_le (d - x)]

/-- A midpoint of two multiples of 2^(-30) that is within 2^(-40) of k hundredths is k hundredths, a whole number of
quarters. -/
theorem dvd_of_midpoint_close {a b k : ℤ} (h : |(a : ℚ) / 2 ^ 30 + b / 2 ^ 30 - 2 * ((k : ℚ) / 100)| < 2 / 2 ^ 40) :
    (25 : ℤ) ∣ k := by
  have hscaled : |((50 * (a + b) - 2 ^ 30 * k : ℤ) : ℚ)| < 1 := by
    have heq : ((50 * (a + b) - 2 ^ 30 * k : ℤ) : ℚ) =
        ((a : ℚ) / 2 ^ 30 + b / 2 ^ 30 - 2 * ((k : ℚ) / 100)) * (50 * 2 ^ 30) := by
      push_cast
      ring
    rw [heq, abs_mul, abs_of_pos (show (0 : ℚ) < 50 * 2 ^ 30 by positivity)]
    linarith
  have hzero : 50 * (a + b) - 2 ^ 30 * k = 0 := Int.abs_lt_one_iff.mp (by exact_mod_cast hscaled)
  omega

/-- A value within 2^(-40) of k ≠ 0 hundredths, in the range of the decoder, is neither tiny nor huge. -/
theorem bounds_of_close {k : ℤ} {d : ℚ} (hlo : -20000 ≤ k) (hhi : k ≤ 45535) (hk : k ≠ 0)
    (hclose : |d - (k : ℚ) / 100| < 1 / 2 ^ 40) : 1 / 128 ≤ |(k : ℚ) / 100| ∧ 1 / 128 ≤ |d| ∧ |d| < 2 ^ 64 := by
  have h1 : (1 : ℚ) ≤ |(k : ℚ)| := by exact_mod_cast Int.one_le_abs hk
  have h2 : |(k : ℚ)| ≤ 45535 := by exact_mod_cast abs_le.mpr ⟨by omega, hhi⟩
  have hcenti : |(k : ℚ) / 100| = |(k : ℚ)| / 100 := by rw [abs_div, abs_of_pos (show (0 : ℚ) < 100 by norm_num)]
  have habove := abs_sub_abs_le_abs_sub d ((k : ℚ) / 100)
  have hbelow := abs_sub_abs_le_abs_sub ((k : ℚ) / 100) d
  rw [abs_sub_comm] at hbelow
  rw [hcenti] at *
  refine ⟨?_, ?_, ?_⟩ <;> linarith

theorem natAbs_lt_of_abs_div_lt {num : ℤ} {den : ℕ} (hden : 0 < den) (h : |(num : ℚ) / den| < 2 ^ 64) :
    num.natAbs < 2 ^ 64 * den := by
  have hpos : (0 : ℚ) < den := by exact_mod_cast hden
  rw [abs_div, abs_of_pos hpos, div_lt_iff₀ hpos, ← Int.cast_abs, Int.abs_eq_natAbs] at h
  exact_mod_cast h

/-- A rational within 2^(-40) of k hundredths that are no whole number of quarters rounds to the same pattern: the
midpoint of two different nearest patterns would lie between them. -/
theorem rne32_eq_of_close {k num : ℤ} {den : ℕ} (hlo : -20000 ≤ k) (hhi : k ≤ 45535) (hdvd : ¬ (25 : ℤ) ∣ k)
    (hden : 0 < den) (hclose : |(num : ℚ) / den - (k : ℚ) / 100| < 1 / 2 ^ 40) : rne32 num den = rne32 k 100 := by
  obtain ⟨hk, hnum, hhuge⟩ := bounds_of_close hlo hhi (fun h0 => hdvd (h0 ▸ dvd_zero 25)) hclose
  obtain ⟨n, hn, hnear⟩ := nearestBinary32_rne32 hden (natAbs_lt_of_abs_div_lt hden hhuge)
  obtain ⟨m, hm, hnear'⟩ := nearestBinary32_rne32 (num := k) (den := 100) (by decide) (by omega)
  have hnlarge := le_abs_nearest (fun c j hc => (hnear c j hc).1) hnum
  have hmlarge := le_abs_nearest (fun c j hc => (hnear' c j hc).1) hk
  have hvalue : ulpsToRat m = ulpsToRat n := by
    obtain ⟨a, ha⟩ := ulpsToRat_eq_dyadic hm (j := 119) (i := 30) rfl (hmlarge.trans' (by norm_num))
    obtain ⟨b, hb⟩ := ulpsToRat_eq_dyadic hn (j := 119) (i := 30) rfl (hnlarge.trans' (by norm_num))
    by_contra hne
    have hmid := abs_add_sub_le_of_nearest hne (hnear' _ _ hn).1 (hnear _ _ hm).1
    rw [ha, hb] at hmid
    exact hdvd (dvd_of_midpoint_close (hmid.trans_lt (by push_cast; linarith)))
  obtain rfl := ulpsToRat_injective hvalue
  refine eq_of_real_eq hn hm ?_
  rintro rfl
  norm_num [ulpsToRat] at hmlarge

/-- Settles O52: on whole quarters the double is the exact value, elsewhere it is too close to it for a rounding
boundary to lie between. -/
theorem decoderAgreesWithDoublePrecision : Obligations.DecoderAgreesWithDoublePrecision := by
  intro raw
  have h0 : (0 : ℤ) ≤ raw.toNat := Int.natCast_nonneg _
  have h : (raw.toNat : ℤ) ≤ 65535 := by have := raw.isLt; omega
  have hcenti : decCenti raw = (raw.toNat : ℤ) - 20000 := rfl
  rw [decF32, decF32Double_eq, hcenti]
  by_cases hdvd : (25 : ℤ) ∣ raw.toNat
  · exact (rne32_num_den _ (by decide) (decodedDouble_of_dvd h0 h hdvd)).symm
  · have hclose := abs_decodedDouble_sub_lt h0 h
    rw [← Rat.num_div_den (decodedDouble raw.toNat)] at hclose
    exact (rne32_eq_of_close (by omega) (by omega) (by omega) (Rat.den_pos _) hclose).symm

end Sys2Proof.Proofs

/-! ## The assembler reads the disassembly (30_encoding.md section 5) -/

namespace Sys2Proof.Proofs

open Sys2Proof.Machine

/-! ### Plain words: the pieces a printed line is made of -/

/-- Neither white space nor one of the two separators of a source line. -/
def isPlain (c : Char) : Bool := c != ';' && c != ',' && !isBlank c

/-- A nonempty piece of a line with no separator and no white space in it. -/
structure PlainWord (cs : List Char) : Prop where
  nonempty : cs ≠ []
  plain : ∀ c ∈ cs, isPlain c = true

section plain
variable {cs p q : List Char} {c : Char}

theorem isPlain_iff : isPlain c = true ↔ c ≠ ';' ∧ c ≠ ',' ∧ isBlank c = false := by
  simp [isPlain, and_assoc]

theorem PlainWord.ne_semicolon (h : PlainWord cs) (hc : c ∈ cs) : c ≠ ';' := (isPlain_iff.mp (h.plain c hc)).1

theorem PlainWord.ne_comma (h : PlainWord cs) (hc : c ∈ cs) : c ≠ ',' := (isPlain_iff.mp (h.plain c hc)).2.1

theorem PlainWord.not_blank (h : PlainWord cs) (hc : c ∈ cs) : isBlank c = false :=
  (isPlain_iff.mp (h.plain c hc)).2.2

theorem PlainWord.reverse (h : PlainWord cs) : PlainWord cs.reverse :=
  ⟨List.reverse_ne_nil_iff.mpr h.nonempty, fun c hc => h.plain c (List.mem_reverse.mp hc)⟩

/-- White space is dropped in front of a plain word only. -/
theorem PlainWord.dropWhile_append (h : PlainWord p) (cs : List Char) : (p ++ cs).dropWhile isBlank = p ++ cs := by
  cases p with
  | nil => exact absurd rfl h.nonempty
  | cons a p => exact List.dropWhile_cons_of_neg (by simp [h.not_blank List.mem_cons_self])

/-- A piece of a line that begins with a plain word and ends with one. -/
structure Trimmed (cs : List Char) : Prop where
  front : ∃ p rest, PlainWord p ∧ cs = p ++ rest
  back : ∃ rest q, PlainWord q ∧ cs = rest ++ q

theorem PlainWord.trimmed (h : PlainWord p) : Trimmed p :=
  ⟨⟨p, [], h, (List.append_nil p).symm⟩, ⟨[], p, h, rfl⟩⟩

theorem trimmed_append (hp : PlainWord p) (hq : Trimmed q) (mid : List Char) : Trimmed (p ++ mid ++ q) := by
  obtain ⟨rest, r, hr, rfl⟩ := hq.back
  exact ⟨⟨p, mid ++ (rest ++ r), hp, List.append_assoc _ _ _⟩,
    ⟨p ++ mid ++ rest, r, hr, (List.append_assoc _ _ _).symm⟩⟩

theorem Trimmed.ne_nil (h : Trimmed cs) : cs ≠ [] := by
  obtain ⟨p, rest, hp, rfl⟩ := h.front
  simp [hp.nonempty]

/-- There is no white space to trim. -/
theorem Trimmed.trimChars_self (h : Trimmed cs) : trimChars cs = cs := by
  have hfront : cs.dropWhile isBlank = cs := by
    obtain ⟨p, rest, hp, rfl⟩ := h.front
    exact hp.dropWhile_append rest
  have hback : cs.reverse.dropWhile isBlank = cs.reverse := by
    obtain ⟨rest, q, hq, rfl⟩ := h.back
    rw [List.reverse_append]
    exact hq.reverse.dropWhile_append _
  rw [trimChars, hfront, hback, List.reverse_reverse]

theorem trimChars_blank_cons (hc : isBlank c = true) (cs : List Char) : trimChars (c :: cs) = trimChars cs := by
  rw [trimChars, List.dropWhile_cons_of_pos hc, trimChars]

theorem PlainWord.splitCommas_self (h : PlainWord p) : splitCommas p = [p] := by
  have hsplit : ∀ l : List Char, (∀ c ∈ l, c ≠ ',') → splitCommas l = [l] := by
    intro l hl
    induction l with
    | nil => rfl
    | cons a l ih =>
      rw [splitCommas, if_neg (hl a List.mem_cons_self), ih fun c hc => hl c (List.mem_cons_of_mem a hc)]
  exact hsplit p fun c hc => h.ne_comma hc

/-- The first comma ends the first piece. -/
theorem PlainWord.splitCommas_append (h : PlainWord p) (cs : List Char) :
    splitCommas (p ++ ',' :: cs) = p :: splitCommas cs := by
  have hsplit : ∀ l : List Char, (∀ c ∈ l, c ≠ ',') → splitCommas (l ++ ',' :: cs) = l :: splitCommas cs := by
    intro l hl
    induction l with
    | nil => rfl
    | cons a l ih =>
      rw [List.cons_append, splitCommas, if_neg (hl a List.mem_cons_self),
        ih fun c hc => hl c (List.mem_cons_of_mem a hc)]
  exact hsplit p fun c hc => h.ne_comma hc

end plain

/-! ### A line of a name, and a line of a name and operands -/

section line
variable {line : String} {name operands : List Char}

theorem assembleLine_name (hline : line.toList = name) (hname : PlainWord name) :
    assembleLine line = assembleParts (String.ofList (name.map Char.toUpper)) [] := by
  have hbody : trimChars (line.toList.takeWhile (· ≠ ';')) = name := by
    rw [hline, List.takeWhile_eq_self_iff.mpr fun c hc => decide_eq_true (hname.ne_semicolon hc),
      hname.trimmed.trimChars_self]
  have htake : name.takeWhile (fun c => !isBlank c) = name :=
    List.takeWhile_eq_self_iff.mpr fun c hc => by simp [hname.not_blank hc]
  have hdrop : name.dropWhile (fun c => !isBlank c) = [] :=
    List.dropWhile_eq_nil_iff.mpr fun c hc => by simp [hname.not_blank hc]
  simp only [assembleLine, hbody, htake, hdrop, if_neg hname.nonempty]
  rfl

/-- The operands stand after one space and hold no comment. -/
theorem assembleLine_operands (hline : line.toList = name ++ [' '] ++ operands) (hname : PlainWord name)
    (htrim : Trimmed operands) (hcomment : ∀ c ∈ operands, c ≠ ';') :
    assembleLine line =
      assembleParts (String.ofList (name.map Char.toUpper)) ((splitCommas operands).map trimChars) := by
  have hline' : Trimmed (name ++ [' '] ++ operands) := trimmed_append hname htrim [' ']
  have hcomment' : ∀ c ∈ name ++ [' '] ++ operands, c ≠ ';' := by
    intro c hc
    rcases List.mem_append.mp hc with hc | hc
    · rcases List.mem_append.mp hc with hc | hc
      · exact hname.ne_semicolon hc
      · rw [List.mem_singleton.mp hc]
        decide
    · exact hcomment c hc
  have hbody : trimChars (line.toList.takeWhile (· ≠ ';')) = name ++ [' '] ++ operands := by
    rw [hline, List.takeWhile_eq_self_iff.mpr fun c hc => decide_eq_true (hcomment' c hc), hline'.trimChars_self]
  have hword : ∀ c ∈ name, (!isBlank c) = true := fun c hc => by simp [hname.not_blank hc]
  have htake : (name ++ [' '] ++ operands).takeWhile (fun c => !isBlank c) = name := by
    rw [List.append_assoc, List.takeWhile_append_of_pos hword]
    exact List.append_nil name
  have hdrop : trimChars ((name ++ [' '] ++ operands).dropWhile (fun c => !isBlank c)) = operands := by
    rw [List.append_assoc, List.dropWhile_append_of_pos hword]
    exact (trimChars_blank_cons (c := ' ') (by decide) operands).trans htrim.trimChars_self
  simp only [assembleLine, hbody, htake, hdrop, if_neg hline'.ne_nil, if_neg htrim.ne_nil]

/-- A line of a name and one operand. -/
theorem assembleLine_one {p : List Char} (hline : line.toList = name ++ [' '] ++ p) (hname : PlainWord name)
    (hp : PlainWord p) : assembleLine line = assembleParts (String.ofList (name.map Char.toUpper)) [p] := by
  rw [assembleLine_operands hline hname hp.trimmed fun c hc => hp.ne_semicolon hc, hp.splitCommas_self, List.map_cons,
    hp.trimmed.trimChars_self, List.map_nil]

/-- A line of a name and two operands, with a comma and a space between them. -/
theorem assembleLine_two {p q : List Char} (hline : line.toList = name ++ [' '] ++ (p ++ [',', ' '] ++ q))
    (hname : PlainWord name) (hp : PlainWord p) (hq : PlainWord q) :
    assembleLine line = assembleParts (String.ofList (name.map Char.toUpper)) [p, q] := by
  have hcomment : ∀ c ∈ p ++ [',', ' '] ++ q, c ≠ ';' := by
    intro c hc
    rcases List.mem_append.mp hc with hc | hc
    · rcases List.mem_append.mp hc with hc | hc
      · exact hp.ne_semicolon hc
      · have hmid : ∀ d ∈ [',', ' '], d ≠ ';' := by simp
        exact hmid c hc
    · exact hq.ne_semicolon hc
  have hblank : splitCommas (' ' :: q) = [' ' :: q] := by
    rw [splitCommas, if_neg (by decide), hq.splitCommas_self]
  have hsplit : splitCommas (p ++ [',', ' '] ++ q) = [p, ' ' :: q] := by
    rw [List.append_assoc]
    exact (hp.splitCommas_append _).trans (congrArg (p :: ·) hblank)
  rw [assembleLine_operands hline hname (trimmed_append hp hq.trimmed _) hcomment, hsplit, List.map_cons, List.map_cons,
    hp.trimmed.trimChars_self, trimChars_blank_cons (by decide), hq.trimmed.trimChars_self, List.map_nil]

end line

/-! ### Hexadecimal numbers -/

theorem digitValue_hexDigit {d : Nat} (h : d < 16) : digitValue 16 (hexDigit d) = some d := by
  revert d
  decide

theorem isPlain_hexDigit {d : Nat} (h : d < 16) : isPlain (hexDigit d) = true := by
  revert d
  decide

/-- The most significant digit first. -/
theorem hexDigits_succ (k n : Nat) : hexDigits (k + 1) n = hexDigit (n / 16 ^ k % 16) :: hexDigits k n := by
  rw [hexDigits, List.range_succ_eq_map, List.map_cons, List.map_map]
  simp only [hexDigits, Nat.add_sub_cancel, Nat.sub_zero, List.cons.injEq, true_and]
  refine List.map_congr_left fun i _ => ?_
  simp only [Function.comp_apply, Nat.succ_eq_add_one, show k - (i + 1) = k - 1 - i by omega]

/-- Printed digits read back. -/
theorem readDigits_hexDigits (k n acc : Nat) :
    readDigits 16 acc (hexDigits k n) = some (acc * 16 ^ k + n % 16 ^ k) := by
  induction k generalizing acc with
  | zero => simp [hexDigits, readDigits, Nat.mod_one]
  | succ k ih =>
    rw [hexDigits_succ, readDigits, digitValue_hexDigit (Nat.mod_lt _ (by decide))]
    show readDigits 16 (acc * 16 + n / 16 ^ k % 16) (hexDigits k n) = _
    rw [ih, Nat.pow_succ, Nat.mod_mul]
    congr 1
    ring

theorem length_hexDigits (k n : Nat) : (hexDigits k n).length = k := by simp [hexDigits]

/-- A number printed as `0x` and k hexadecimal digits, in the form R54 gives an operand. -/
def hexNumber (k n : Nat) : List Char := '0' :: 'x' :: hexDigits k n

theorem plainWord_hexNumber (k n : Nat) : PlainWord (hexNumber k n) := by
  refine ⟨List.cons_ne_nil _ _, fun c hc => ?_⟩
  simp only [hexNumber, List.mem_cons] at hc
  rcases hc with rfl | rfl | hc
  · decide
  · decide
  · obtain ⟨i, -, rfl⟩ := List.mem_map.mp hc
    exact isPlain_hexDigit (Nat.mod_lt _ (by decide))

theorem readNumber_hexNumber {k n : Nat} (h0 : 0 < k) (h8 : k ≤ 8) (hn : n < 16 ^ k) :
    readNumber (hexNumber k n) = some n := by
  rw [hexNumber, readNumber, length_hexDigits, if_neg (by omega), readDigits_hexDigits, Nat.zero_mul, Nat.zero_add,
    Nat.mod_eq_of_lt hn]

theorem toList_hexWord (x : Word) : (hexWord x).toList = hexNumber 8 x.toNat := by
  rw [hexWord, String.toList_append, String.toList_ofList (l := hexDigits 8 x.toNat)]
  rfl

theorem toList_hexByte (b : Byte) : (hexByte b).toList = hexNumber 2 b.toNat := by
  rw [hexByte, String.toList_append, String.toList_ofList (l := hexDigits 2 b.toNat)]
  rfl

theorem readWord_hexNumber (x : Word) : readWord (hexNumber 8 x.toNat) = .ok x := by
  rw [readWord, readNumber_hexNumber (by decide) (by decide) x.isLt]
  exact (if_pos x.isLt).trans (by rw [BitVec.ofNat_toNat, BitVec.setWidth_eq])

theorem readByteOperand_hexNumber (b : Byte) : readByteOperand (hexNumber 2 b.toNat) = .ok b := by
  rw [readByteOperand, readNumber_hexNumber (by decide) (by decide) b.isLt]
  exact (if_pos b.isLt).trans (by rw [BitVec.ofNat_toNat, BitVec.setWidth_eq])

/-! ### Mnemonics -/

/-- A mnemonic is a plain word in upper case. -/
theorem plainWord_mnemonic (i : Instr) : PlainWord (mnemonic i).toList := by
  suffices h : (mnemonic i).toList ≠ [] ∧ ∀ c ∈ (mnemonic i).toList, isPlain c = true from ⟨h.1, h.2⟩
  cases i <;> simp [mnemonic, isPlain, isBlank]

theorem toUpper_mnemonic (i : Instr) : String.ofList ((mnemonic i).toList.map Char.toUpper) = mnemonic i := by
  cases i <;> simp [mnemonic]

/-- No mnemonic is the name of a pseudo-instruction. -/
theorem assembleParts_mnemonic (i : Instr) (ps : List (List Char)) :
    assembleParts (mnemonic i) ps = assembleCommand (mnemonic i) ps := by
  cases i <;> rfl

/-- A mnemonic names the command it is printed for, given operand 0. -/
theorem commandNamed_mnemonic (i : Instr) :
    ∃ j, commandNamed (mnemonic i) 0#32 = some j ∧ encode j = commandWord i.opcode 0#32 ∧ j.opcode = i.opcode ∧
      j.ignoresOperand = i.ignoresOperand := by
  cases i <;> exact ⟨_, rfl, rfl, rfl, rfl⟩

theorem assembleCommand_mnemonic_nil {i : Instr} (h : i.ignoresOperand = true) :
    assembleCommand (mnemonic i) [] = .ok [commandWord i.opcode 0#32] := by
  obtain ⟨j, hj, henc, -, hignores⟩ := commandNamed_mnemonic i
  simp only [assembleCommand, hj, if_pos (hignores.trans h), henc]

theorem assembleCommand_mnemonic_hexNumber {i : Instr} (h : i.ignoresOperand = false) (x : Word) :
    assembleCommand (mnemonic i) [hexNumber 8 x.toNat] = .ok [commandWord i.opcode x] := by
  obtain ⟨j, hj, -, hopcode, hignores⟩ := commandNamed_mnemonic i
  have hused : ¬ j.ignoresOperand = true := by simp [hignores, h]
  simp only [assembleCommand, hj, if_neg hused, readWord_hexNumber, hopcode]

/-! ### Words -/

/-- The line of a command assembles to its word, an ignored operand coming back as 0. -/
theorem assembleLine_disassemble {w : CommandWord} {i : Instr} (h : decode w = .ok i) :
    assembleLine (disassemble w) = .ok [if i.ignoresOperand then commandWord i.opcode 0#32 else w] := by
  cases hignores : i.ignoresOperand with
  | true =>
    have hline : disassemble w = mnemonic i := by simp only [disassemble, h, hignores, if_true]
    rw [hline, assembleLine_name rfl (plainWord_mnemonic i), toUpper_mnemonic, assembleParts_mnemonic,
      assembleCommand_mnemonic_nil hignores, if_pos rfl]
  | false =>
    have hline : (disassemble w).toList = (mnemonic i).toList ++ [' '] ++ hexNumber 8 i.operand.toNat := by
      simp only [disassemble, h, hignores, Bool.false_eq_true, if_false, String.toList_append, toList_hexWord]
      rfl
    rw [assembleLine_one hline (plainWord_mnemonic i) (plainWord_hexNumber _ _), toUpper_mnemonic,
      assembleParts_mnemonic, assembleCommand_mnemonic_hexNumber hignores, if_neg Bool.false_ne_true,
      ← encode_of_decode h, encode]

theorem assembleParts_cmd (op : Byte) (x : Word) :
    assembleParts ".CMD" [hexNumber 2 op.toNat, hexNumber 8 x.toNat] = .ok [commandWord op x] := by
  have hcmd : ∀ p q, assembleParts ".CMD" [p, q] =
      match readByteOperand p, readWord q with
      | .ok op, .ok x => .ok [commandWord op x]
      | .error e, _ => .error e
      | _, .error e => .error e := fun _ _ => rfl
  rw [hcmd, readByteOperand_hexNumber, readWord_hexNumber]

/-- The `.cmd` line of an illegal word assembles to it (log entry 9). -/
theorem assembleLine_disassemble_illegal {w : CommandWord} {e : DecodeError} (h : decode w = .error e) :
    assembleLine (disassemble w) = .ok [w] := by
  have hop : opField w ∉ assignedOpcodes := by
    intro hop
    obtain ⟨i, hi, -⟩ := decodeFields_of_mem hop (operandField w)
    exact absurd (hi.symm.trans h) nofun
  have hdecode : decode w = .error (.unassignedOpcode (opField w)) := decodeFields_of_not_mem hop _
  have hline : (disassemble w).toList =
      ".cmd".toList ++ [' '] ++
        (hexNumber 2 (opField w).toNat ++ [',', ' '] ++ hexNumber 8 (operandField w).toNat) := by
    simp only [disassemble, hdecode, String.toList_append, toList_hexWord, toList_hexByte]
    simp
  have hname : PlainWord ".cmd".toList := ⟨by decide, by simp [isPlain, isBlank]⟩
  have hupper : String.ofList (".cmd".toList.map Char.toUpper) = ".CMD" := rfl
  rw [assembleLine_two hline hname (plainWord_hexNumber _ _) (plainWord_hexNumber _ _), hupper, assembleParts_cmd,
    commandWord_fields]

/-- Settles O59: a command in the assembler's form has operand 0 where it ignores its operand. -/
theorem assemblerReadsTheDisassembly : Obligations.AssemblerReadsTheDisassembly := by
  refine fun w => ⟨fun i hi => assembleLine_disassemble hi, fun i hi hwf => ?_,
    fun e he => assembleLine_disassemble_illegal he⟩
  rw [assembleLine_disassemble hi]
  cases hignores : i.ignoresOperand with
  | false => rfl
  | true =>
    have hzero : i.operand = 0#32 := by simpa [Instr.wellFormed, hignores] using hwf
    rw [if_pos rfl, ← hzero, ← encode, encode_of_decode hi]

end Sys2Proof.Proofs
